-- ==== Sys2Proof/Word.lean ====
section
/-! DEFINITION. The widths the spec gives data: a byte, the 64-bit value, the 32-bit status word (00_scope R10, R11; 10_state R23). -/

namespace Sys2Proof

/-- A byte: a command word, a frame byte, a stream byte (00_scope R12). -/
abbrev Byte := BitVec 8

/-- A value, an operand or a 64-bit register (00_scope R10, VALUE_WIDTH). -/
abbrev Value := BitVec 64

/-- The STATUS word (10_state R26). -/
abbrev Word32 := BitVec 32

/-- Ten bytes: FRAME, EBUF and DBUF (00_scope R10, ENC_BUF_BYTES and DEC_BUF_BYTES). -/
abbrev TenBytes := Vector Byte 10

end Sys2Proof
end

