-- ==== Sys2Proof/Syntax.lean ====
section
/-! DEFINITION. The commands of the block: one constructor per row of spec/opcode_table.json (30_encoding R72, R73). -/

namespace Sys2Proof

/-- A command. The operand is not part of the command word: it is latched from ARG (30_encoding R74). -/
inductive Instr where
  /-- ENC, ENCODE (41_encoder R120). -/
  | enc
  /-- DEC, DECODE (43_decoder R160). -/
  | dec
  /-- MFB, MIN_FRAME_BYTES (40_bitframemath R106). -/
  | mfb
  /-- PCB, PAYLOAD_CAPACITY_BITS (40_bitframemath R107). -/
  | pcb
  /-- A reserved opcode (30_encoding R73), which completes with ILLEGAL_COMMAND (60_exceptions R208). -/
  | reserved (opcode : Byte)
deriving DecidableEq, Repr

end Sys2Proof
end

