-- ==== Sys2Proof/WellFormed.lean ====
section
/-! DEFINITION. Which terms of Instr stand for a command: a reserved command carries a reserved opcode (30_encoding R73). -/

namespace Sys2Proof

/-- The reserved opcodes are 0x00 and 0x05 to 0xFF (30_encoding R73). -/
def isReservedOpcode (c : Byte) : Bool := c == 0x00#8 || decide (0x05 ≤ c.toNat)

/-- A command is well formed when it is the reading of some command word. -/
def Instr.wellFormed : Instr → Bool
  | .enc => true
  | .dec => true
  | .mfb => true
  | .pcb => true
  | .reserved c => isReservedOpcode c

end Sys2Proof
end

