-- ==== Sys2Proof/Decode.lean ====
section
/-! DEFINITION. The command decoder and encoder, format CMD8: bits 7:0 of the written byte are the opcode (30_encoding R70 to R73). -/

namespace Sys2Proof

/-- Why bytes are no command word. -/
inductive DecodeError where
  /-- There is no byte: a command is never shorter than one byte (30_encoding R70). -/
  | noCommandByte
deriving DecidableEq, Repr

/-- The opcode map (30_encoding R72); every other opcode is reserved (R73). -/
def decodeOpcode (c : Byte) : Instr :=
  if c = 0x01#8 then .enc
  else if c = 0x02#8 then .dec
  else if c = 0x03#8 then .mfb
  else if c = 0x04#8 then .pcb
  else .reserved c

/-- Decode the command at the head of a list of bytes; the other bytes are left over (30_encoding R70). -/
def decode : List Byte → Except DecodeError (Instr × List Byte)
  | [] => .error .noCommandByte
  | c :: rest => .ok (decodeOpcode c, rest)

/-- The opcode of a command (30_encoding R72, R73). -/
def opcodeOf : Instr → Byte
  | .enc => 0x01#8
  | .dec => 0x02#8
  | .mfb => 0x03#8
  | .pcb => 0x04#8
  | .reserved c => c

/-- The bytes of a command: one byte (30_encoding R70). -/
def encode (i : Instr) : List Byte := [opcodeOf i]

/-- The low `n` bytes of a number, least significant first. -/
def tableBytes : Nat → Nat → List Byte
  | 0, _ => []
  | n + 1, w => BitVec.ofNat 8 w :: tableBytes n (w / 256)

/-- What the decoder reads from an instruction of `nbits` bits whose bits are `w`, numbered as
spec/opcode_table.json numbers them. -/
def decodeTableWord (nbits w : Nat) : Option Instr :=
  match decode (tableBytes (nbits / 8) w) with
  | .ok (i, []) => if w < 2 ^ nbits then some i else none
  | .ok (_, _ :: _) => none
  | .error _ => none

end Sys2Proof
end

