-- ==== Sys2Proof/Config.lean ====
section
/-! DEFINITION. The block's parameters (00_scope R10) and its two OPEN parameters, which are free values: nothing in Lean can evaluate them. -/

namespace Sys2Proof.Config

/-- MAX_SIG_BITS (00_scope R10). -/
abbrev maxSigBits : Nat := 64

/-- MAX_T, the largest frame in bytes (00_scope R10). -/
abbrev maxT : Nat := 10

/-- MAX_SRC_REQ, the largest single ByteSource request in bytes (00_scope R10). -/
abbrev maxSrcReq : Nat := 8

/-- The two orders in which a bus can present the bytes of a multi-byte register (20_memory R54). -/
inductive ByteOrder where
  /-- The least significant byte comes first. -/
  | littleEndian
  /-- The most significant byte comes first. -/
  | bigEndian
deriving DecidableEq, Repr, Inhabited

/-- BUS_BYTE_ORDER, OPEN (20_memory R54, U6, D25). A free value: log 13. -/
opaque busByteOrder : ByteOrder

/-- SRC_POS_AFTER_RESET, OPEN (70_reset R232, U5, D24): where the source agent's stream stands after the
n-th reset during a DECODE. A free value: log 12. -/
opaque srcPosAfterReset : Nat → Nat

end Sys2Proof.Config
end

