-- ==== Sys2Proof/Machine/Bytes.lean ====
section
/-! DEFINITION. Byte sequences and bit counts (00_scope R14, 40_bitframemath R100) and the bytes of a number on the bus (20_memory R54). -/

namespace Sys2Proof.Machine

/-- BE_n(v): n bytes, most significant first (00_scope R14). -/
def beBytes : Nat → Nat → List Byte
  | 0, _ => []
  | n + 1, v => BitVec.ofNat 8 (v / 2 ^ (8 * n)) :: beBytes n v

/-- BEval of a byte sequence (00_scope R14). -/
def beVal : List Byte → Nat
  | [] => 0
  | b :: bs => b.toNat * 2 ^ (8 * bs.length) + beVal bs

/-- The number of consecutive one bits of `b` counted from bit n - 1 downward. -/
def onesFrom (b : Byte) : Nat → Nat
  | 0 => 0
  | n + 1 => if b.getLsbD n then onesFrom b n + 1 else 0

/-- clo8(b): the leading one bits of a byte (00_scope R14). -/
def clo8 (b : Byte) : Nat := onesFrom b 8

/-- sigBits(v): 0 if v = 0, else floor(log2 v) + 1 (40_bitframemath R100). -/
def sigBits (v : Value) : Nat := if v.toNat = 0 then 0 else Nat.log2 v.toNat + 1

/-- Byte j of a sequence, or 0x00 past its end (41_encoder R120). -/
def byteOrZero (bytes : List Byte) (j : Nat) : Byte := bytes.getD j 0x00#8

/-- Ten bytes from a sequence: the bytes past its end are 0x00 (10_state R29). -/
def tenBytes (bytes : List Byte) : TenBytes :=
  #v[byteOrZero bytes 0, byteOrZero bytes 1, byteOrZero bytes 2, byteOrZero bytes 3, byteOrZero bytes 4,
     byteOrZero bytes 5, byteOrZero bytes 6, byteOrZero bytes 7, byteOrZero bytes 8, byteOrZero bytes 9]

/-- Write bytes into ten bytes from index i on; bytes that would fall past index 9 are not written. -/
def storeBytes : List Byte → Nat → TenBytes → TenBytes
  | [], _, buf => buf
  | b :: bs, i, buf => storeBytes bs (i + 1) (buf.setIfInBounds i b)

/-- The bytes from index i up to, not including, index j. -/
def sliceBytes (buf : TenBytes) (i j : Nat) : List Byte := (buf.toList.take j).drop i

/-- Byte i of ten bytes (0x00 past index 9, where nothing reads). -/
def byteAt (buf : TenBytes) (i : Nat) : Byte := buf.getD i 0x00#8

/-- The bytes of a number of `width` bytes, in the order in which a bus of byte order `o` presents them (20_memory R54). -/
def busLanes (o : Config.ByteOrder) (width : Nat) (v : Nat) : List Byte :=
  match o with
  | .bigEndian => beBytes width v
  | .littleEndian => (beBytes width v).reverse

/-- The number a host composes from the bytes of a bus of byte order `o` (20_memory R54). -/
def busNumber (o : Config.ByteOrder) (lanes : List Byte) : Nat :=
  match o with
  | .bigEndian => beVal lanes
  | .littleEndian => beVal lanes.reverse

end Sys2Proof.Machine
end

