-- ==== Sys2Proof/Machine/State.lean ====
section
/-! DEFINITION. The machine's state: the block's registers and internal state (10_state), the source agent and the host (00_scope R17), and the agents' turns; the reasons a step can stop; the state right after reset. -/

namespace Sys2Proof.Machine

/-- The block's control phase (10_state R31). -/
inductive Phase where
  /-- No operation. -/
  | idle
  /-- An ENC, MFB, PCB or reserved command is accepted and has not completed. -/
  | exec
  /-- A DECODE is accepted and has not issued its first request. -/
  | decStart
  /-- A DECODE waits for the response to its request for frame byte 0. -/
  | decB0
  /-- A DECODE waits for the response to its request for frame byte 1. -/
  | decB1
  /-- A DECODE waits for the response to its request for the remaining frame bytes. -/
  | decTail
deriving DecidableEq, Repr

/-- The response slot `resp` (10_state R34, 42_bytesource R141). -/
inductive Response where
  /-- NONE. -/
  | none
  /-- DATA(bytes), in stream order. -/
  | data (bytes : List Byte)
  /-- END, the source's EndOfInput. -/
  | endOfInput
  /-- ERR, the source's SourceError. -/
  | sourceError
deriving DecidableEq, Repr

/-- The architected errors (60_exceptions R201). -/
inductive ArchError where
  | valueOutOfRange
  | endOfInput
  | truncatedFrame
  | sourceError
  | malformedZeroRun
  | malformedOverlong
  | malformedOverflow
  | illegalCommand
deriving DecidableEq, Repr

/-- A host bus access (20_memory R53, 30_encoding R85): offset in the register window, width in bytes,
direction and data. Data are numbers (20_memory R54). -/
inductive Access where
  | read (offset : Fin 64) (width : Nat)
  | write (offset : Fin 64) (width : Nat) (data : Value)
deriving DecidableEq, Repr

/-- A statement of a host program (30_encoding R84); WR ARG, WR CMD and RD are accesses (R85). -/
inductive HostStmt where
  /-- WR and RD: one bus access. -/
  | access (a : Access)
  /-- WAIT: read STATUS until DONE = 1. -/
  | wait
  /-- RESET: the platform asserts the reset input. -/
  | reset
  /-- SRC: the source agent is ByteSourceOver(bytes) from this point. -/
  | src (bytes : List Byte)
deriving DecidableEq, Repr

/-- What a bus read handed back to the host (70_reset R241; log 15). -/
structure BusRead where
  offset : Fin 64
  width : Nat
  data : Value
deriving DecidableEq, Repr

/-- What kind of source agent is connected (log 10). -/
inductive SourceKind where
  /-- `ByteSourceOver(bytes)`: deterministic; it answers every request (42_bytesource R150). -/
  | over
  /-- Any other agent: its answers are its free choice, and it may never answer (42_bytesource R144, R149). -/
  | free
deriving DecidableEq, Repr

/-- The source agent (42_bytesource R146, R150; log 10). -/
structure SourceAgent where
  /-- The bytes of its stream. -/
  bytes : List Byte
  /-- The stream position p: the bytes before it are gone (10_state R38). -/
  pos : Nat
  /-- It has answered END (42_bytesource R146). -/
  ended : Bool
  /-- Whether it is ByteSourceOver or an agent free in its answers. -/
  kind : SourceKind
deriving DecidableEq, Repr

/-- How a source agent answers an outstanding request: its free choice (42_bytesource R144, R149). ByteSourceOver
has no choice (R150) and answers its one way whichever is named. -/
inductive SourceChoice where
  /-- DATA, the next bytes of the stream. -/
  | data
  /-- END, after discarding `skipped` bytes: how many is not specified (42_bytesource R142, U2; log 11). -/
  | endOfInput (skipped : Nat)
  /-- ERR, after discarding `skipped` bytes: how many is not specified (42_bytesource R142, U2; log 11). -/
  | sourceError (skipped : Nat)
deriving DecidableEq, Repr

/-- Which agent moves (00_scope R17, 20_memory R60; log 2). -/
inductive Turn where
  /-- The host executes its next statement. -/
  | host
  /-- The block takes its enabled step. -/
  | block
  /-- The source agent answers the outstanding request. -/
  | source (c : SourceChoice)
  /-- The platform asserts the reset input (70_reset R230). -/
  | reset
  /-- A source agent is connected to the port from this point (70_reset R233; log 14). -/
  | connect (a : SourceAgent)
deriving DecidableEq, Repr

/-- The host-protocol violations, the items of 60_exceptions R210 in its order. -/
inductive Violation where
  /-- Item 1, a write to CMD while BUSY = 1. -/
  | cmdWriteWhileBusy
  /-- Item 2, a write to ARG while BUSY = 1. -/
  | argWriteWhileBusy
  /-- Item 3, a read of RES_VALUE, RES_LEN or FRAME while DONE = 0. -/
  | resultReadWhileNotDone
  /-- Item 4, a read of CMD, or a write to STATUS, RES_VALUE, RES_LEN or FRAME. -/
  | wrongDirection
  /-- Item 5, a reserved offset, a non-first byte of a register or another width. -/
  | badOffsetOrWidth
  /-- Item 6, a read of ARG, or an acceptance of ENC, MFB or PCB, while ARG holds no value (60_exceptions R211). -/
  | argHoldsNoValue
deriving DecidableEq, Repr

/-- Why the machine stops. -/
inductive Fault where
  /-- The state's `hpv` mark is set: the run is faulted and no further step of any agent is taken (60_exceptions R210, U9,
  D8). Raised by `step`. Safe: the spec gives the hardware no behaviour after a violation. -/
  | hpvMarkSet
deriving DecidableEq, Repr

/-- Why an instruction has no meaning. -/
inductive Refusal where
  /-- Kept for an arm of `exec` without a meaning; every arm has one, so nothing raises it. Safe. -/
  | notModelled (mnemonic : String)
deriving DecidableEq, Repr

/-- The state. Names as in spec/10_state.md; INVENTORY.md lists each with its rule. -/
structure State where
  /-- ARG (R24); no value until the host writes it (log 6). -/
  arg : Option Value
  /-- STATUS (R26). -/
  status : Word32
  /-- RES_VALUE (R27). -/
  resValue : Value
  /-- RES_LEN (R28). -/
  resLen : Byte
  /-- FRAME[0..9] (R29). -/
  frame : TenBytes
  /-- The control phase (R31). -/
  phase : Phase
  /-- The accepted opcode (R32); no value after reset (log 6). -/
  op : Option Byte
  /-- The latched operand (R32); may hold no value (log 6). -/
  opnd : Option Value
  /-- EBUF[0..9], the encoder's working buffer (R33; log 7). -/
  ebuf : TenBytes
  /-- T0, the encoder's candidate length (R33; log 7). -/
  t0 : Nat
  /-- DBUF[0..9], the frame bytes read so far (R34). -/
  dbuf : TenBytes
  /-- nread, the number of frame bytes received (R34). -/
  nread : Nat
  /-- f, the number of leading 0xFF bytes (R34). -/
  f : Nat
  /-- k, the leading ones of the terminating byte (R34). -/
  k : Nat
  /-- T, the frame length once known (R34). -/
  frameT : Nat
  /-- req_n, the size of the outstanding request (R34). -/
  reqN : Nat
  /-- resp, the response slot (R34). -/
  resp : Response
  /-- The source agent connected to the port, if any (R38; 70_reset R233). -/
  source : Option SourceAgent
  /-- The statements the host has still to execute (30_encoding R84). -/
  hostProgram : List HostStmt
  /-- What the host's reads returned, newest first (log 15). -/
  hostReads : List BusRead
  /-- The turns still to come (log 2). -/
  schedule : List Turn
  /-- How many times a free value has been drawn (log 12). -/
  freeDraws : Nat
  /-- The sticky mark of a host-protocol violation (R35). -/
  hpv : Bool
  /-- Which violation set the mark (60_exceptions R210; log 8). -/
  violation : Option Violation
deriving DecidableEq, Repr

/-- The machine right after reset (70_reset R230, R231), at the start of a run. Values the spec leaves out:
logs 4 and 5; no source agent, no host program, no schedule: logs 2, 14, 16. -/
def State.reset : State where
  arg := none
  status := 0x00000000#32
  resValue := 0#64
  resLen := 0#8
  frame := Vector.replicate 10 0#8
  phase := .idle
  op := none
  opnd := none
  ebuf := Vector.replicate 10 0#8
  t0 := 0
  dbuf := Vector.replicate 10 0#8
  nread := 0
  f := 0
  k := 0
  frameT := 0
  reqN := 0
  resp := .none
  source := none
  hostProgram := []
  hostReads := []
  schedule := []
  freeDraws := 0
  hpv := false
  violation := none

end Sys2Proof.Machine
end

