-- ==== Sys2Proof/Machine/Flags.lean ====
section
/-! DEFINITION. The fields of STATUS (10_state R26) and every value the block gives it (10_state R36; 60_exceptions R200 to R203). -/

namespace Sys2Proof.Machine

/-- STATUS.BUSY, bit 0 (10_state R26). -/
def busy (s : State) : Bool := s.status.getLsbD 0

/-- STATUS.DONE, bit 1 (10_state R26). -/
def done (s : State) : Bool := s.status.getLsbD 1

/-- STATUS.ERROR, bit 2 (10_state R26). -/
def error (s : State) : Bool := s.status.getLsbD 2

/-- STATUS.SRC_WAIT, bit 3 (10_state R26). -/
def srcWait (s : State) : Bool := s.status.getLsbD 3

/-- STATUS.ERRCODE, bits 7:4 (10_state R26). -/
def errCode (s : State) : BitVec 4 := s.status.extractLsb' 4 4

/-- STATUS bits 31:8, reserved (10_state R26). -/
def statusReserved (s : State) : BitVec 24 := s.status.extractLsb' 8 24

/-- The 4-bit code of an architected error (60_exceptions R201). -/
def codeOf : ArchError → BitVec 4
  | .valueOutOfRange => 0x1#4
  | .endOfInput => 0x2#4
  | .truncatedFrame => 0x3#4
  | .sourceError => 0x4#4
  | .malformedZeroRun => 0x5#4
  | .malformedOverlong => 0x6#4
  | .malformedOverflow => 0x7#4
  | .illegalCommand => 0x8#4

/-- STATUS at acceptance (60_exceptions R200). -/
def statusAccepted : Word32 := 0x00000001#32

/-- STATUS at a successful completion (60_exceptions R202). -/
def statusDone : Word32 := 0x00000002#32

/-- STATUS at a completion with error E: 0x00000006 + (code(E) << 4) (60_exceptions R203). -/
def statusError (e : ArchError) : Word32 := 0x00000006#32 + ((codeOf e).setWidth 32 <<< 4)

/-- STATUS with SRC_WAIT <- 1 (42_bytesource R143). -/
def withSrcWait (w : Word32) : Word32 := w ||| 0x00000008#32

/-- STATUS with SRC_WAIT <- 0 (42_bytesource R144). -/
def withoutSrcWait (w : Word32) : Word32 := w &&& 0xFFFFFFF7#32

end Sys2Proof.Machine
end

