-- ==== Sys2Proof/Machine/Operands.lean ====
section
/-! DEFINITION. The operand of a command (30_encoding R74, R75) and the registers of the host window (20_memory R53). -/

namespace Sys2Proof.Machine

/-- The commands that read ARG: ENC, MFB and PCB (30_encoding R75). -/
def readsArg : Instr → Bool
  | .enc => true
  | .dec => false
  | .mfb => true
  | .pcb => true
  | .reserved _ => false

/-- A register of the host window; FRAME by its byte index (20_memory R53, R55). -/
inductive HostReg where
  | cmd
  | arg
  | status
  | resValue
  | resLen
  | frame (j : Fin 10)
deriving DecidableEq, Repr

/-- The register whose first byte is at an offset and whose width is the access's, if there is one (20_memory R53, R56). -/
def hostRegAt (offset : Fin 64) (width : Nat) : Option HostReg :=
  if offset.val = 0x00 ∧ width = 1 then some .cmd
  else if offset.val = 0x08 ∧ width = 8 then some .arg
  else if offset.val = 0x10 ∧ width = 4 then some .status
  else if offset.val = 0x18 ∧ width = 8 then some .resValue
  else if offset.val = 0x20 ∧ width = 1 then some .resLen
  else if h : 0x28 ≤ offset.val ∧ offset.val - 0x28 < 10 ∧ width = 1 then some (.frame ⟨offset.val - 0x28, h.2.1⟩)
  else none

end Sys2Proof.Machine
end

