-- ==== Sys2Proof/Machine/Ops.lean ====
section
/-! DEFINITION. The shared operations: acceptance, successful completion, completion with an error (the block's one way of taking an exception), the one-step operations, and the reset event. -/

namespace Sys2Proof.Machine

/-- Completion: the three result registers, STATUS and the phase, in one step (60_exceptions R202, R203). -/
def finish (value : Value) (len : Byte) (frame : TenBytes) (status : Word32) (s : State) : State :=
  { s with resValue := value, resLen := len, frame := frame, status := status, phase := .idle }

/-- Successful completion (60_exceptions R202). -/
def complete (value : Value) (len : Byte) (frame : TenBytes) (s : State) : State :=
  finish value len frame statusDone s

/-- `raise E`: completion with an architected error (60_exceptions R203). There is no vector, no saved program
counter and no mode (R214), and no return from an error: the next acceptance clears it (R215). -/
def raiseError (e : ArchError) (s : State) : State :=
  finish 0#64 0#8 (tenBytes []) (statusError e) s

/-- The effect of an acceptance (60_exceptions R200). -/
def latchCommand (c : Byte) (opnd : Option Value) (s : State) : State :=
  { s with
    op := some c
    opnd := opnd
    status := statusAccepted
    phase := if c = 0x02#8 then .decStart else .exec }

/-- A host-protocol violation: the sticky mark is set, and with it which violation it is; nothing else is done
(60_exceptions R210, 10_state R35; log 8). -/
def markViolation (v : Violation) (s : State) : State := { s with hpv := true, violation := some v }

/-- A host write of byte c to CMD: the violations 1 and 6, in that order (60_exceptions R212), then acceptance (R200). -/
def acceptCommand (c : Byte) (s : State) : Except Violation State :=
  if busy s then .error .cmdWriteWhileBusy
  else if readsArg (decodeOpcode c) && s.arg.isNone then .error .argHoldsNoValue
  else .ok (latchCommand c s.arg s)

/-- The step of a one-step operation: in phase EXEC it is performed from start to completion (60_exceptions R209);
in another phase the block has no such step (log 3). -/
def oneStep (operation : State → State) (s : State) : Host.Outcome State Fault Refusal :=
  .next (if s.phase = .exec then operation s else s)

/-- An operation over the latched operand (30_encoding R74). A command that reads ARG while it holds no value is
violation 6 (30_encoding R75), which acceptance has caught before (60_exceptions R211; log 26). -/
def withOperand (operation : Value → State → State) (s : State) : State :=
  match s.opnd with
  | some v => operation v s
  | none => markViolation .argHoldsNoValue s

/-- The phases of a DECODE (10_state R31). -/
def inDecode (s : State) : Bool :=
  match s.phase with
  | .idle => false
  | .exec => false
  | .decStart => true
  | .decB0 => true
  | .decB1 => true
  | .decTail => true

/-- The source agent's stream after a reset: during a DECODE its position is the free value
SRC_POS_AFTER_RESET (70_reset R232; log 12), else it is unchanged. -/
def sourceAfterReset (s : State) : Option SourceAgent :=
  if inDecode s then s.source.map fun a => { a with pos := Config.srcPosAfterReset s.freeDraws }
  else s.source

/-- The reset event: every piece of the block's state takes its reset value, an outstanding request is
withdrawn; hpv, the host and the other agents' turns are not the block's (70_reset R230, R232). -/
def resetEvent (s : State) : State :=
  { State.reset with
    source := sourceAfterReset s
    hostProgram := s.hostProgram
    hostReads := s.hostReads
    schedule := s.schedule
    freeDraws := if inDecode s then s.freeDraws + 1 else s.freeDraws
    hpv := s.hpv
    violation := s.violation }

end Sys2Proof.Machine
end

