-- ==== Sys2Proof/Machine/ByteSource.lean ====
section
/-! DEFINITION. The ByteSource port: request, answer and take steps (42_bytesource R143 to R146) and the source agents (R149, R150). -/

namespace Sys2Proof.Machine

/-- The request step, for n bytes, into a waiting phase (42_bytesource R143). -/
def requestBytes (n : Nat) (p : Phase) (s : State) : State :=
  { s with reqN := n, resp := .none, status := withSrcWait s.status, phase := p }

/-- The next n bytes of the agent's stream as a DATA answer, if it has not answered END and has them (42_bytesource R142, R146). -/
def dataAnswer (n : Nat) (a : SourceAgent) : Option (Response × SourceAgent) :=
  if a.ended = false ∧ a.pos + n ≤ a.bytes.length then
    some (.data ((a.bytes.drop a.pos).take n), { a with pos := a.pos + n })
  else none

/-- The answer of ByteSourceOver: DATA when the stream has n more bytes, else END, discarding the rest (42_bytesource R150, R146). -/
def overAnswer (n : Nat) (a : SourceAgent) : Response × SourceAgent :=
  (dataAnswer n a).getD (.endOfInput, { a with pos := a.bytes.length, ended := true })

/-- The answer of a free agent to a request of n bytes, by its choice, and the agent after it; none where the choice is
not its to take: DATA it does not have, or anything but END after END (42_bytesource R144, R146, R149). -/
def freeAnswer (c : SourceChoice) (n : Nat) (a : SourceAgent) : Option (Response × SourceAgent) :=
  match c with
  | .data => dataAnswer n a
  | .endOfInput skipped => some (.endOfInput, { a with pos := a.pos + skipped, ended := true })
  | .sourceError skipped => if a.ended then none else some (.sourceError, { a with pos := a.pos + skipped })

/-- The answer of the connected agent: ByteSourceOver has one answer, whatever the choice (42_bytesource R150). -/
def sourceAnswer (c : SourceChoice) (n : Nat) (a : SourceAgent) : Option (Response × SourceAgent) :=
  match a.kind with
  | .over => some (overAnswer n a)
  | .free => freeAnswer c n a

/-- The answer step (42_bytesource R144); where no request is outstanding, no agent is connected or the choice
is not the agent's to take, there is no step (R149; log 3). -/
def answerRequest (c : SourceChoice) (s : State) : State :=
  if srcWait s then
    match s.source.bind (sourceAnswer c s.reqN) with
    | some (r, a) => { s with resp := r, status := withoutSrcWait s.status, source := some a }
    | none => s
  else s

/-- The take step for a request of n bytes (42_bytesource R145): END raises `onEnd`, ERR raises SOURCE_ERROR, DATA goes
to `onData`, with the slot emptied. While the request is outstanding, or with no whole response in the slot,
the block has no step (R144, R142; log 3). -/
def takeResponse (n : Nat) (onEnd : ArchError) (onData : List Byte → State → State) (s : State) : State :=
  if srcWait s then s
  else
    match s.resp with
    | .none => s
    | .endOfInput => raiseError onEnd { s with resp := .none }
    | .sourceError => raiseError .sourceError { s with resp := .none }
    | .data bytes => if bytes.length = n then onData bytes { s with resp := .none } else s

end Sys2Proof.Machine
end

