-- ==== Sys2Proof/Machine/Decoder.lean ====
section
/-! DEFINITION. The decoder: the steps of a DECODE (43_decoder R160, R161) and the command DEC. -/

namespace Sys2Proof.Machine

/-- The payload bits of the terminating byte b, with k leading ones: b & (0xFF >> (k + 1)) (43_decoder R160, R170). -/
def headBits (b : Byte) (k : Nat) : Byte := b &&& (0xFF#8 >>> (k + 1))

/-- The value of a frame of length t whose terminating byte is byte i - 1 of the staging buffer (43_decoder R170). -/
def assembleValue (buf : TenBytes) (k t i : Nat) : Nat :=
  (headBits (byteAt buf (i - 1)) k).toNat * 2 ^ (8 * (t - i)) + beVal (sliceBytes buf i t)

/-- The end of a DECODE: the value and the length, with i the index after the terminating byte (43_decoder R160, R170). -/
def completeDecode (i : Nat) (s : State) : State :=
  complete (BitVec.ofNat 64 (assembleValue s.dbuf s.k s.frameT i)) (BitVec.ofNat 8 s.frameT) (tenBytes []) s

/-- From the terminating byte b on: the checks in their order (60_exceptions R212), then the tail request or the end
(43_decoder R160, R166 to R171). -/
def onTerminatingByte (b : Byte) (s0 : State) : State :=
  let k := clo8 b
  let t := 8 * s0.f + k
  let s := { s0 with k := k, frameT := t }
  if t = 0 then raiseError .malformedZeroRun s
  else if Config.maxT < t then raiseError .malformedOverlong s
  else if t = 10 ∧ headBits b k ≠ 0x00#8 then raiseError .malformedOverflow s
  else if 0 < t - s.nread then requestBytes (t - s.nread) .decTail s
  else completeDecode s.nread s

/-- The step out of DEC_START, up to the request for frame byte 0 (43_decoder R160, R161). -/
def startDecode (s : State) : State :=
  requestBytes 1 .decB0 { s with nread := 0, f := 0 }

/-- Frame byte 0 has come (43_decoder R160). -/
def onByte0 (b : Byte) (s0 : State) : State :=
  let s := { s0 with dbuf := storeBytes [b] 0 s0.dbuf, nread := 1 }
  if b = 0xFF#8 then requestBytes 1 .decB1 { s with f := 1 } else onTerminatingByte b s

/-- Frame byte 1 has come, after a first byte 0xFF (43_decoder R160, R168). -/
def onByte1 (b : Byte) (s0 : State) : State :=
  let s := { s0 with dbuf := storeBytes [b] 1 s0.dbuf, nread := 2 }
  if b = 0xFF#8 then raiseError .malformedOverlong s else onTerminatingByte b s

/-- The tail has come (43_decoder R160, R170). -/
def onTail (bytes : List Byte) (s0 : State) : State :=
  completeDecode s0.nread { s0 with dbuf := storeBytes bytes s0.nread s0.dbuf, nread := s0.frameT }

/-- The block's next step of a DECODE (43_decoder R161); outside a DECODE it has none (42_bytesource R143; log 3). -/
def decodeStep (s : State) : State :=
  match s.phase with
  | .idle => s
  | .exec => s
  | .decStart => startDecode s
  | .decB0 => takeResponse 1 .endOfInput (fun bytes => onByte0 (byteOrZero bytes 0)) s
  | .decB1 => takeResponse 1 .truncatedFrame (fun bytes => onByte1 (byteOrZero bytes 0)) s
  | .decTail => takeResponse s.reqN .truncatedFrame onTail s

/-- The block's step of a DEC (43_decoder R160, R161). -/
def execDec (s : State) : Host.Outcome State Fault Refusal := .next (decodeStep s)

end Sys2Proof.Machine
end

