-- ==== Sys2Proof/Machine/BitFrameMath.lean ====
section
/-! DEFINITION. BitFrameMath: the capacity functions (40_bitframemath R100 to R105) and the commands MFB (R106) and PCB (R107). -/

namespace Sys2Proof.Machine

/-- minimalFrameBytes(n) = n div 7 + 1 (40_bitframemath R102). -/
def minimalFrameBytes (n : Nat) : Nat := n / 7 + 1

/-- payloadCapacityBits(T) = 7T - 1, for T >= 1 (40_bitframemath R103). -/
def payloadCapacityBits (t : Nat) : Nat := 7 * t - 1

/-- MIN_FRAME_BYTES on its operand (40_bitframemath R106). -/
def minFrameBytesOp (n : Value) (s : State) : State :=
  if Config.maxSigBits < n.toNat then raiseError .valueOutOfRange s
  else
    let t := minimalFrameBytes n.toNat
    complete (BitVec.ofNat 64 t) (BitVec.ofNat 8 t) (tenBytes []) s

/-- PAYLOAD_CAPACITY_BITS on its operand (40_bitframemath R107). -/
def payloadCapacityOp (t : Value) (s : State) : State :=
  if t.toNat < 1 ∨ Config.maxT < t.toNat then raiseError .valueOutOfRange s
  else complete (BitVec.ofNat 64 (payloadCapacityBits t.toNat)) 0#8 (tenBytes []) s

/-- The block's step of an MFB (40_bitframemath R106, 60_exceptions R209). -/
def execMfb (s : State) : Host.Outcome State Fault Refusal := oneStep (withOperand minFrameBytesOp) s

/-- The block's step of a PCB (40_bitframemath R107, 60_exceptions R209). -/
def execPcb (s : State) : Host.Outcome State Fault Refusal := oneStep (withOperand payloadCapacityOp) s

end Sys2Proof.Machine
end

