-- ==== Sys2Proof/Machine/Encoder.lean ====
section
/-! DEFINITION. The encoder: the source's algorithm (41_encoder R122, R123) and the command ENC (R120). -/

namespace Sys2Proof.Machine

/-- A frame of length t holding v, as an integer (30_encoding R77, 41_encoder R122 step 6). -/
def frameInt (t v : Nat) : Nat := ((2 ^ t - 1) <<< (7 * t)) ||| v

/-- The bytes of a frame of length t holding v (30_encoding R77). -/
def frameBytes (t v : Nat) : List Byte := beBytes t (frameInt t v)

/-- collision(T, s) = (s > 7T - 1) (41_encoder R123). -/
def collision (t s : Nat) : Bool := decide (8 * t - (t + 1) < s)

/-- Steps 4 and 5: grow the candidate length while it collides, at most `fuel` times (41_encoder R122). -/
def growLength : Nat → Nat → Nat → Nat
  | 0, t, _ => t
  | fuel + 1, t, s => if collision t s then growLength fuel (t + 1) s else t

/-- The frame length the encoder settles on (41_encoder R122 steps 1 to 5; the buffer bounds it by 10). -/
def encodeLength (v : Value) : Nat :=
  let t0 := minimalFrameBytes (sigBits v)
  growLength (Config.maxT - t0) t0 (sigBits v)

/-- encode(v): the frame's bytes (41_encoder R122). -/
def encodeFrame (v : Value) : List Byte := frameBytes (encodeLength v) v.toNat

/-- ENCODE on its operand: the working buffer, then the results in one step (41_encoder R120, R122). -/
def encodeOp (v : Value) (s : State) : State :=
  let t := encodeLength v
  let bytes := encodeFrame v
  complete 0#64 (BitVec.ofNat 8 t) (tenBytes bytes) { s with t0 := t, ebuf := storeBytes bytes 0 s.ebuf }

/-- The block's step of an ENC (41_encoder R120, R121, 60_exceptions R209). -/
def execEnc (s : State) : Host.Outcome State Fault Refusal := oneStep (withOperand encodeOp) s

end Sys2Proof.Machine
end

