-- ==== Sys2Proof/Machine/Illegal.lean ====
section
/-! DEFINITION. The reserved opcodes (30_encoding R73, 60_exceptions R208). -/

namespace Sys2Proof.Machine

/-- The block's step of a reserved opcode: ILLEGAL_COMMAND; no operand, no ByteSource (60_exceptions R208, R209).
The error does not depend on which reserved opcode it is. -/
def execReserved (_opcode : Byte) (s : State) : Host.Outcome State Fault Refusal :=
  oneStep (raiseError .illegalCommand) s

end Sys2Proof.Machine
end

