-- ==== Sys2Proof/Machine/Dispatch.lean ====
section
/-! DEFINITION. The block's next step of the operation a command names: one arm per constructor of Instr (60_exceptions R209, 43_decoder R161). -/

namespace Sys2Proof.Machine

def exec (i : Instr) (s : State) : Host.Outcome State Fault Refusal :=
  match i with
  | .enc => Sys2Proof.Machine.execEnc s
  | .dec => Sys2Proof.Machine.execDec s
  | .mfb => Sys2Proof.Machine.execMfb s
  | .pcb => Sys2Proof.Machine.execPcb s
  | .reserved opcode => Sys2Proof.Machine.execReserved opcode s

end Sys2Proof.Machine
end

