-- ==== Sys2Proof/Machine/HostPort.lean ====
section
/-! DEFINITION. The host: register accesses (20_memory R53 to R58, 60_exceptions R210) and the statements of a host program (30_encoding R84, R85). -/

namespace Sys2Proof.Machine

/-- A result register, readable while DONE = 1 (10_state R30). -/
def readResult (v : Value) (s : State) : Except Violation Value :=
  if done s then .ok v else .error .resultReadWhileNotDone

/-- A host read of a register: its number, zero-extended, or the violation (10_state R23 to R30, 60_exceptions R210). -/
def hostRead (r : HostReg) (s : State) : Except Violation Value :=
  match r with
  | .cmd => .error .wrongDirection
  | .arg =>
    match s.arg with
    | some v => .ok v
    | none => .error .argHoldsNoValue
  | .status => .ok (s.status.setWidth 64)
  | .resValue => readResult s.resValue s
  | .resLen => readResult (s.resLen.setWidth 64) s
  | .frame j => readResult ((byteAt s.frame j.val).setWidth 64) s

/-- A host write of a number to a register, or the violation (10_state R23 to R25, 60_exceptions R210). -/
def hostWrite (r : HostReg) (data : Value) (s : State) : Except Violation State :=
  match r with
  | .cmd => acceptCommand (data.setWidth 8) s
  | .arg => if busy s then .error .argWriteWhileBusy else .ok { s with arg := some data }
  | .status => .error .wrongDirection
  | .resValue => .error .wrongDirection
  | .resLen => .error .wrongDirection
  | .frame _ => .error .wrongDirection

/-- Hand the data of a read back to the host (70_reset R241; log 15). -/
def recordRead (offset : Fin 64) (width : Nat) (data : Value) (s : State) : State :=
  { s with hostReads := ⟨offset, width, data⟩ :: s.hostReads }

/-- One bus access: the register at the exact offset and width (20_memory R56), then its read or write. -/
def busAccess (a : Access) (s : State) : Except Violation State :=
  match a with
  | .read offset width =>
    match hostRegAt offset width with
    | none => .error .badOffsetOrWidth
    | some r => (hostRead r s).map fun v => recordRead offset width v s
  | .write offset width data =>
    match hostRegAt offset width with
    | none => .error .badOffsetOrWidth
    | some r => hostWrite r data s

/-- The state after a bus access: its effect, or none but the mark of the violation it is (60_exceptions R210). -/
def accessOrMark (a : Access) (s : State) : State :=
  match busAccess a s with
  | .ok t => t
  | .error v => markViolation v s

/-- A source agent is connected from this point (30_encoding R84, 70_reset R233; logs 14, 23). -/
def connectSource (a : SourceAgent) (s : State) : State := { s with source := some a }

/-- The STATUS read of a WAIT: it goes on to the next statement when DONE = 1, else reads again at the host's
next turn (30_encoding R84; log 22). -/
def waitStatus (rest : List HostStmt) (s : State) : State :=
  let s' := recordRead 0x10 4 (s.status.setWidth 64) s
  if done s then { s' with hostProgram := rest } else s'

/-- The host's turn: its next statement, or nothing where its program has ended (30_encoding R84; log 3). -/
def hostTurn (s : State) : State :=
  match s.hostProgram with
  | [] => s
  | .access a :: rest => accessOrMark a { s with hostProgram := rest }
  | .wait :: rest => waitStatus rest s
  | .reset :: rest => resetEvent { s with hostProgram := rest }
  | .src bytes :: rest => connectSource ⟨bytes, 0, false, .over⟩ { s with hostProgram := rest }

/-- The statement `WR ARG, v` (30_encoding R84). -/
def wrArg (v : Value) : HostStmt := .access (.write 0x08 8 v)

/-- The statement `WR CMD, c` (30_encoding R84). -/
def wrCmd (c : Byte) : HostStmt := .access (.write 0x00 1 (c.setWidth 64))

/-- The statement `RD r`, for a register of the window (30_encoding R84, 20_memory R53). -/
def rd (r : HostReg) : HostStmt :=
  match r with
  | .cmd => .access (.read 0x00 1)
  | .arg => .access (.read 0x08 8)
  | .status => .access (.read 0x10 4)
  | .resValue => .access (.read 0x18 8)
  | .resLen => .access (.read 0x20 1)
  | .frame j => .access (.read ⟨0x28 + j.val, by omega⟩ 1)

/-- The pseudo-instruction of a command with operand v: `ENC v`, `MFB n`, `PCB T`, and `DEC`, which writes no ARG (30_encoding R85). -/
def pseudoInstr (i : Instr) (v : Value) : List HostStmt :=
  if readsArg i then [wrArg v, wrCmd (opcodeOf i), .wait] else [wrCmd (opcodeOf i), .wait]

end Sys2Proof.Machine
end

