-- ==== Sys2Proof/Machine/Turns.lean ====
section
/-! DEFINITION. The agents' turns: which agent moves next, and the block's turn, which runs the latched command (00_scope R17, 20_memory R60, 60_exceptions R209). -/

namespace Sys2Proof.Machine

/-- The command in progress: the decoding of the latched opcode, while the block is in an operation (10_state R31, R32). -/
def currentCommand (s : State) : Option Instr :=
  if s.phase = .idle then none else s.op.map decodeOpcode

/-- The block's turn: the next step of the command in progress, or nothing (60_exceptions R209, 43_decoder R161; log 3). -/
def blockTurn (s : State) : Host.Outcome State Fault Refusal :=
  match currentCommand s with
  | some i => exec i s
  | none => .next s

/-- The block has an enabled step: it is in an operation and not waiting for an answer (42_bytesource R143 to R145). -/
def blockEnabled (s : State) : Bool :=
  (currentCommand s).isSome && !srcWait s

/-- A ByteSourceOver has a request to answer: it answers every request (42_bytesource R150). A free agent's answer is
never assumed (70_reset R239): it answers only at a turn of the schedule, or never (42_bytesource R144). -/
def sourceEnabled (s : State) : Bool := srcWait s && s.source.any fun a => a.kind == .over

/-- The turn taken where the schedule names none: each block step as soon as it is enabled, ByteSourceOver's answer at
once, else the host (spec/95_test_vectors.md section 7; log 2). -/
def eagerTurn (s : State) : Turn :=
  if blockEnabled s then .block else if sourceEnabled s then .source .data else .host

/-- One agent's turn. -/
def takeTurn (t : Turn) (s : State) : Host.Outcome State Fault Refusal :=
  match t with
  | .host => .next (hostTurn s)
  | .block => blockTurn s
  | .source c => .next (answerRequest c s)
  | .reset => .next (resetEvent s)
  | .connect a => .next (connectSource a s)

/-- The next turn of the schedule, or the eager one; no agent moves once hpv is set (60_exceptions R210). -/
def nextTurn (s : State) : Host.Outcome State Fault Refusal :=
  if s.hpv then .fault .hpvMarkSet
  else
    match s.schedule with
    | t :: rest => takeTurn t { s with schedule := rest }
    | [] => takeTurn (eagerTurn s) s

/-- The state in which the command c has just been accepted and the block moves next; a command that reads ARG
finds the written ARG, or 0 where none was written (log 16). -/
def acceptedState (c : Byte) (s : State) : State :=
  let arg := if readsArg (decodeOpcode c) then some (s.arg.getD 0#64) else s.arg
  latchCommand c arg { s with arg := arg, schedule := .block :: s.schedule, hpv := false, violation := none }

end Sys2Proof.Machine
end

