-- ==== Sys2Proof/Machine/Step.lean ====
section
/-! DEFINITION. One step of the machine: one agent's turn (D1). -/

namespace Sys2Proof.Machine

/-- One step: the agent whose turn it is moves once. -/
def step (s : State) : Host.Outcome State Fault Refusal := nextTurn s

/-- The state in which the very next step runs the command whose word is `w`: the state of its acceptance (log 16). -/
def State.withFetchWord (s : State) (nbits w : Nat) : State := acceptedState (BitVec.ofNat 8 (w % 2 ^ nbits)) s

end Sys2Proof.Machine
end

