-- ==== Sys2Proof/Safety.lean ====
section
/-! DEFINITION. What counts as a safe run: the invariant of the block (10_state R26, R28, R31, R34), the end of a run and what is observable there (70_reset R240). -/

namespace Sys2Proof.Machine

/-- The errors a completion can report (60_exceptions R201). -/
def allErrors : List ArchError :=
  [.valueOutOfRange, .endOfInput, .truncatedFrame, .sourceError, .malformedZeroRun, .malformedOverlong,
   .malformedOverflow, .illegalCommand]

/-- STATUS between operations: as reset leaves it, or as a completion does (10_state R36). -/
def idleStatus (w : Word32) : Bool :=
  w == 0x00000000#32 || w == statusDone || allErrors.any fun e => w == statusError e

/-- A waiting phase: either the request is outstanding with an empty slot, or it has been answered with END, ERR or
DATA of exactly the requested size (42_bytesource R142 to R145, 90_conflicts C7). -/
def portConsistent (s : State) : Bool :=
  match s.resp with
  | .none => s.status == withSrcWait statusAccepted
  | .data bytes => s.status == statusAccepted && bytes.length == s.reqN
  | .endOfInput => s.status == statusAccepted
  | .sourceError => s.status == statusAccepted

/-- The staging state of a DECODE that waits for its tail: the run it has read gives a length it decodes, its
value fits 64 bits, and the request is for exactly the missing bytes (43_decoder R160, R165, R169). -/
def tailConsistent (s : State) : Bool :=
  let b := byteAt s.dbuf s.f
  decide (s.f ≤ 1 ∧ s.k ≤ 7 ∧ s.k = clo8 b ∧ s.frameT = 8 * s.f + s.k ∧ 2 ≤ s.frameT ∧ s.frameT ≤ Config.maxT)
    && decide (s.nread = s.f + 1 ∧ s.reqN + s.nread = s.frameT ∧ 1 ≤ s.reqN ∧ s.reqN ≤ Config.maxSrcReq)
    && decide (s.frameT = 10 → headBits b s.k = 0x00#8)

/-- A command of phase EXEC has an opcode other than DEC's and the operand it reads (60_exceptions R200, 30_encoding R75). -/
def execConsistent (s : State) : Bool :=
  match s.op with
  | some c => c != 0x02#8 && (!readsArg (decodeOpcode c) || s.opnd.isSome)
  | none => false

/-- The block's state is consistent, phase by phase (10_state R26, R28, R31, R34, R36). -/
def blockConsistent (s : State) : Bool :=
  decide (s.resLen.toNat ≤ Config.maxT) &&
  match s.phase with
  | .idle => idleStatus s.status && s.resp == .none
  | .exec => s.status == statusAccepted && s.resp == .none && execConsistent s
  | .decStart => s.status == statusAccepted && s.resp == .none && s.op == some 0x02#8
  | .decB0 => portConsistent s && s.op == some 0x02#8 && decide (s.reqN = 1 ∧ s.nread = 0 ∧ s.f = 0)
  | .decB1 =>
    portConsistent s && s.op == some 0x02#8 && decide (s.reqN = 1 ∧ s.nread = 1 ∧ s.f = 1 ∧ byteAt s.dbuf 0 = 0xFF#8)
  | .decTail => portConsistent s && s.op == some 0x02#8 && tailConsistent s

/-- The invariant: the block's state is consistent, and the mark is set exactly where a violation is named (60_exceptions R210). -/
def inv (s : State) : Bool := blockConsistent s && s.hpv == s.violation.isSome

/-- How many steps of its own the block still takes in a DECODE, at most, by its phase (43_decoder R161, R165). -/
def decodeStepsLeft : Phase → Nat
  | .idle => 0
  | .exec => 0
  | .decStart => 4
  | .decB0 => 3
  | .decB1 => 2
  | .decTail => 1

/-- The end of a run (70_reset R240): the host's program has ended, the block is IDLE, no request is outstanding and
hpv is false. -/
def endOfRun (s : State) : Bool :=
  s.hostProgram.isEmpty && decide (s.phase = .idle) && !srcWait s && !s.hpv

/-- The results a host can read: RES_VALUE, RES_LEN and FRAME while DONE = 1 (10_state R30). -/
def readableResults (s : State) : Option (Value × Byte × TenBytes) :=
  if done s then some (s.resValue, s.resLen, s.frame) else none

/-- The observable end state (70_reset R240): STATUS, the results when DONE = 1, and the source agent's position. -/
def observable (s : State) : Word32 × Option (Value × Byte × TenBytes) × Option Nat :=
  (s.status, readableResults s, s.source.map (·.pos))

/-- The fields no step of an operation writes: ARG, the latched command, the other agents and the mark
(10_state R24, R32; 60_exceptions R213). -/
abbrev keepsOutside (s t : State) : Prop :=
  t.arg = s.arg ∧ t.op = s.op ∧ t.opnd = s.opnd ∧ t.source = s.source ∧ t.hostProgram = s.hostProgram ∧
    t.hostReads = s.hostReads ∧ t.schedule = s.schedule ∧ t.freeDraws = s.freeDraws ∧ t.hpv = s.hpv ∧
    t.violation = s.violation

/-- A state marked by a violation, the host's statement and turn used up and nothing else done (60_exceptions R210). -/
abbrev markedBy (v : Violation) (prog : List HostStmt) (rest : List Turn) (s : State) : State :=
  { s with hostProgram := prog, schedule := rest, hpv := true, violation := some v }

/-- The decoder's staging state is unchanged (10_state R34). -/
abbrev keepsDecoder (s t : State) : Prop :=
  t.dbuf = s.dbuf ∧ t.nread = s.nread ∧ t.f = s.f ∧ t.k = s.k ∧ t.frameT = s.frameT ∧ t.reqN = s.reqN ∧ t.resp = s.resp

/-- The encoder's working buffer is unchanged (10_state R33). -/
abbrev keepsEncoder (s t : State) : Prop := t.ebuf = s.ebuf ∧ t.t0 = s.t0

/-- The result registers are unchanged (10_state R27 to R29). -/
abbrev keepsResults (s t : State) : Prop := t.resValue = s.resValue ∧ t.resLen = s.resLen ∧ t.frame = s.frame

/-- A completed state: IDLE, with this STATUS and these results (60_exceptions R202, R203). -/
abbrev completedWith (t : State) (status : Word32) (value len : Nat) (frame : TenBytes) : Prop :=
  t.phase = .idle ∧ t.status = status ∧ t.resValue.toNat = value ∧ t.resLen.toNat = len ∧ t.frame = frame

/-- A state whose block has just issued a request for n bytes in a waiting phase (42_bytesource R143). -/
abbrev requestedIn (t : State) (p : Phase) (n : Nat) (status : Word32) : Prop :=
  t.phase = p ∧ t.reqN = n ∧ t.resp = .none ∧ t.status = status

/-- The staging values a DECODE has written and can still read agree; leftovers need not (10_state R34, U7). -/
def liveStagingAgrees (s t : State) : Prop :=
  match s.phase with
  | .idle => True
  | .exec => True
  | .decStart => True
  | .decB0 => t.nread = s.nread ∧ t.f = s.f ∧ t.reqN = s.reqN
  | .decB1 => t.nread = s.nread ∧ t.f = s.f ∧ t.reqN = s.reqN ∧ byteAt t.dbuf 0 = byteAt s.dbuf 0
  | .decTail =>
    t.nread = s.nread ∧ t.f = s.f ∧ t.reqN = s.reqN ∧ t.k = s.k ∧ t.frameT = s.frameT ∧
      sliceBytes t.dbuf 0 s.nread = sliceBytes s.dbuf 0 s.nread

/-- Two states that differ only in what no access can show: leftovers of earlier operations in the working and
staging buffers, and results that are not readable (10_state R30, R33, R34). -/
def differOnlyInLeftovers (s t : State) : Prop :=
  keepsOutside s t ∧ t.status = s.status ∧ t.phase = s.phase ∧ t.resp = s.resp ∧
    readableResults t = readableResults s ∧ liveStagingAgrees s t

/-- Two outcomes that no access can tell apart. -/
def outcomesAgree : Host.Outcome State Fault Refusal → Host.Outcome State Fault Refusal → Prop
  | .next s, .next t => differOnlyInLeftovers s t
  | .fault a, .fault b => a = b
  | .refused a, .refused b => a = b
  | _, _ => False

end Sys2Proof.Machine
end

