-- ==== Sys2Proof/Certificates/Slice0/Obligations.lean ====
section
/-! DEFINITION. The statements for the provers, each a rule of spec/ or derived from its rules. -/

open Sys2Proof Sys2Proof.Machine

/-! Commands: decoding and encoding. -/

/-- R72: the opcode map, whole: which byte is which command, and which commands have an operand. -/
def Obligations.OpcodeMapIsWhole : Prop :=
  ∀ (c : Byte) (rest : List Byte), decode (c :: rest) = .ok (decodeOpcode c, rest) ∧
    (decodeOpcode c = .enc ↔ c = 0x01#8) ∧ (decodeOpcode c = .dec ↔ c = 0x02#8) ∧
    (decodeOpcode c = .mfb ↔ c = 0x03#8) ∧ (decodeOpcode c = .pcb ↔ c = 0x04#8) ∧
    (c ≠ 0x01#8 → c ≠ 0x02#8 → c ≠ 0x03#8 → c ≠ 0x04#8 → decodeOpcode c = .reserved c) ∧
    (readsArg (decodeOpcode c) = true ↔ c = 0x01#8 ∨ c = 0x03#8 ∨ c = 0x04#8)

/-- R70 to R73: decoding a well-formed command's byte gives the command back, whatever follows it. -/
def Obligations.CommandDecodesBackFromItsEncoding : Prop :=
  ∀ (i : Instr) (rest : List Byte), i.wellFormed = true → decode (encode i ++ rest) = .ok (i, rest)

/-- R70 to R73: every byte is the word of exactly the well-formed command it decodes to. -/
def Obligations.EveryByteIsAWellFormedCommand : Prop :=
  ∀ (c : Byte) (rest : List Byte),
    ∃ i, decode (c :: rest) = .ok (i, rest) ∧ i.wellFormed = true ∧ encode i = [c]

/-! Steps. -/

/-- R209, R161: the block's turn is `exec` of the latched command, at the state less the turn it used up; where the schedule is
empty the block moves first unless it waits (log 2). -/
def Obligations.StepRunsTheLatchedCommand : Prop :=
  ∀ (s : State) (c : Byte), s.hpv = false → s.phase ≠ .idle → s.op = some c →
    (∀ rest, s.schedule = .block :: rest → step s = exec (decodeOpcode c) { s with schedule := rest }) ∧
    (s.schedule = [] → srcWait s = false → step s = exec (decodeOpcode c) s)

/-- The state made for a command word (log 16) is the state of its acceptance (R200), and its next step is `exec` of it. -/
def Obligations.StepRunsTheFetchedWord : Prop :=
  ∀ (s : State) (c : Byte),
    step (s.withFetchWord 8 c.toNat) =
        exec (decodeOpcode c) { s.withFetchWord 8 c.toNat with schedule := s.schedule } ∧
      (s.withFetchWord 8 c.toNat).op = some c ∧ (s.withFetchWord 8 c.toNat).status = 0x00000001#32 ∧
      (s.withFetchWord 8 c.toNat).phase = (if c = 0x02#8 then .decStart else .exec) ∧
      (readsArg (decodeOpcode c) = true → (s.withFetchWord 8 c.toNat).opnd = some (s.arg.getD 0#64))

/-- R35, R210: a marked state takes no step, so nothing clears the mark; and a step that sets it does nothing but use up its
turn, and the host's statement, and name the violation. -/
def Obligations.MarkedStatesTakeNoStep : Prop :=
  ∀ s : State, (s.hpv = true → step s = .fault .hpvMarkSet) ∧
    (∀ t, step s = .next t → s.hpv = false ∧
      (t.hpv = true → ∃ v, t = markedBy v t.hostProgram t.schedule s))

/-! BitFrameMath. -/

/-- R100: sigBits is the least s with v < 2^s, and at most 64. -/
def Obligations.SigBitsIsTheLeastBitCount : Prop :=
  ∀ v : Value, (v = 0#64 → sigBits v = 0) ∧ (v ≠ 0#64 → sigBits v = Nat.log2 v.toNat + 1) ∧
    v.toNat < 2 ^ sigBits v ∧ (∀ n, v.toNat < 2 ^ n → sigBits v ≤ n) ∧ sigBits v ≤ 64

/-- R102: minimalFrameBytes is the smallest positive T with 7T - 1 >= n; its closed form and range. -/
def Obligations.MinimalFrameBytesIsSmallest : Prop :=
  ∀ n : Nat, n ≤ 64 →
    minimalFrameBytes n = n / 7 + 1 ∧ 1 ≤ minimalFrameBytes n ∧ minimalFrameBytes n ≤ 10 ∧
    n ≤ 7 * minimalFrameBytes n - 1 ∧ (∀ t, 1 ≤ t → n ≤ 7 * t - 1 → minimalFrameBytes n ≤ t) ∧
    minimalFrameBytes 64 = 10

/-- R105: the three laws of BitFrameMath. -/
def Obligations.BitFrameMathLawsHold : Prop :=
  (∀ t, 1 ≤ t → t ≤ 10 → minimalFrameBytes (payloadCapacityBits t) = t) ∧
  (∀ n, n ≤ 64 → n ≤ payloadCapacityBits (minimalFrameBytes n) ∧
    (1 < minimalFrameBytes n → payloadCapacityBits (minimalFrameBytes n - 1) < n)) ∧
  (∀ v : Value, sigBits v ≤ payloadCapacityBits (minimalFrameBytes (sigBits v)))

/-- R106: MIN_FRAME_BYTES, on every operand, its violation where ARG holds no value, and its encoding. -/
def Obligations.MfbComputesMinimalFrameBytes : Prop :=
  (∀ (s : State) (n : Value), s.phase = .exec → s.opnd = some n →
    exec .mfb s = .next (if n.toNat ≤ 64 then
      { s with
        resValue := BitVec.ofNat 64 (n.toNat / 7 + 1), resLen := BitVec.ofNat 8 (n.toNat / 7 + 1)
        frame := Vector.replicate 10 0#8, status := 0x00000002#32, phase := .idle }
      else
      { s with
        resValue := 0#64, resLen := 0#8, frame := Vector.replicate 10 0#8, status := 0x00000016#32
        phase := .idle })) ∧
  (∀ s : State, busy s = false → s.arg = none → hostWrite .cmd 0x03#64 s = .error .argHoldsNoValue) ∧
  decode [0x03#8] = .ok (.mfb, [])

/-- R107: PAYLOAD_CAPACITY_BITS, on every operand, its violation where ARG holds no value, and its encoding. -/
def Obligations.PcbComputesPayloadCapacity : Prop :=
  (∀ (s : State) (n : Value), s.phase = .exec → s.opnd = some n →
    exec .pcb s = .next (if 1 ≤ n.toNat ∧ n.toNat ≤ 10 then
      { s with
        resValue := BitVec.ofNat 64 (7 * n.toNat - 1), resLen := 0#8
        frame := Vector.replicate 10 0#8, status := 0x00000002#32, phase := .idle }
      else
      { s with
        resValue := 0#64, resLen := 0#8, frame := Vector.replicate 10 0#8, status := 0x00000016#32
        phase := .idle })) ∧
  (∀ s : State, busy s = false → s.arg = none → hostWrite .cmd 0x04#64 s = .error .argHoldsNoValue) ∧
  decode [0x04#8] = .ok (.pcb, [])

/-! Encoder and frame format. -/

/-- R120: ENCODE, on every operand: the frame's bytes in FRAME, 0 above them, the length in RES_LEN; its
violation where ARG holds no value; and its encoding. -/
def Obligations.EncWritesTheFrame : Prop :=
  (∀ (s : State) (v : Value), s.phase = .exec → s.opnd = some v →
    ∃ (fr eb : TenBytes), exec .enc s = .next
        { s with
          resValue := 0#64, resLen := BitVec.ofNat 8 (encodeLength v), frame := fr, status := 0x00000002#32
          phase := .idle, ebuf := eb, t0 := encodeLength v } ∧
      (encodeFrame v).length = encodeLength v ∧
      ∀ j : Fin 10, fr[j] = if j.val < encodeLength v then (encodeFrame v).getD j.val 0#8 else 0#8) ∧
  (∀ s : State, busy s = false → s.arg = none → hostWrite .cmd 0x01#64 s = .error .argHoldsNoValue) ∧
  decode [0x01#8] = .ok (.enc, [])

/-- R124: the growth loop never runs, and the closed form. -/
def Obligations.EncodeHasTheClosedForm : Prop :=
  ∀ v : Value, collision (minimalFrameBytes (sigBits v)) (sigBits v) = false ∧
    encodeLength v = sigBits v / 7 + 1 ∧ 1 ≤ encodeLength v ∧ encodeLength v ≤ 10 ∧
    encodeFrame v =
      beBytes (sigBits v / 7 + 1) (((2 ^ (sigBits v / 7 + 1) - 1) <<< (7 * (sigBits v / 7 + 1))) ||| v.toNat)

/-- R77: a frame as an integer: T ones, a zero, and the value in the low 7T - 1 bits. -/
def Obligations.FrameIsRunTerminatorPayload : Prop :=
  ∀ t v : Nat, 1 ≤ t → v < 2 ^ (7 * t - 1) →
    (frameBytes t v).length = t ∧ beVal (frameBytes t v) = ((2 ^ t - 1) <<< (7 * t)) ||| v ∧
    beVal (frameBytes t v) < 2 ^ (8 * t) ∧ beVal (frameBytes t v) / 2 ^ (7 * t) = 2 ^ t - 1 ∧
    (beVal (frameBytes t v)).testBit (7 * t - 1) = false ∧ beVal (frameBytes t v) % 2 ^ (7 * t - 1) = v

/-- R81, R126: no shorter frame holds the value, and the encoder's frame does. -/
def Obligations.EncodeIsMinimal : Prop :=
  ∀ v : Value, v.toNat < 2 ^ (7 * encodeLength v - 1) ∧
    ∀ t, 1 ≤ t → v.toNat < 2 ^ (7 * t - 1) → encodeLength v ≤ t

/-- R127: the encoding table by length: the range of values, the first byte or bytes, and the bytes after them. -/
def Obligations.EncodingTableByLength : Prop :=
  ∀ v : Value,
    (∀ t, 1 ≤ t → t ≤ 9 →
      (encodeLength v = t ↔ (t = 1 ∨ 2 ^ (7 * (t - 1) - 1) ≤ v.toNat) ∧ v.toNat < 2 ^ (7 * t - 1))) ∧
    (encodeLength v = 10 ↔ 2 ^ 62 ≤ v.toNat) ∧
    (∀ t, 1 ≤ t → t ≤ 6 → encodeLength v = t →
      encodeFrame v = BitVec.ofNat 8 (0x100 - 2 ^ (8 - t) + v.toNat / 2 ^ (8 * (t - 1))) :: beBytes (t - 1) v.toNat) ∧
    (encodeLength v = 7 → encodeFrame v = 0xFE#8 :: beBytes 6 v.toNat) ∧
    (encodeLength v = 8 → encodeFrame v = 0xFF#8 :: BitVec.ofNat 8 (v.toNat / 2 ^ 48) :: beBytes 6 v.toNat) ∧
    (encodeLength v = 9 → encodeFrame v = 0xFF#8 :: BitVec.ofNat 8 (0x80 + v.toNat / 2 ^ 56) :: beBytes 7 v.toNat) ∧
    (encodeLength v = 10 → encodeFrame v = 0xFF#8 :: 0xC0#8 :: beBytes 8 v.toNat)

/-- R83: no frame is a proper beginning of another: the frames the block handles are told apart by their first bytes. -/
def Obligations.NoFrameBeginsAnother : Prop :=
  ∀ t u v w : Nat, 1 ≤ t → t ≤ 10 → 1 ≤ u → u ≤ 10 → v < 2 ^ (7 * t - 1) → w < 2 ^ (7 * u - 1) →
    frameBytes t v <+: frameBytes u w → t = u ∧ v = w

/-! ByteSource. -/

/-- R143, R161: the step out of DEC_START is the request for frame byte 0. -/
def Obligations.DecodeStartsWithARequestForOneByte : Prop :=
  ∀ s : State, s.phase = .decStart →
    exec .dec s = .next
      { s with nread := 0, f := 0, reqN := 1, resp := .none, status := s.status ||| 0x00000008#32, phase := .decB0 }

/-- R144, R149: a turn of the source agent gives a step only while a request is outstanding, and changes only the slot,
SRC_WAIT and the agent. -/
def Obligations.AnswerStepChangesOnlyThePort : Prop :=
  ∀ (s : State) (c : SourceChoice) (rest : List Turn), s.hpv = false → s.schedule = .source c :: rest →
    (srcWait s = false → step s = .next { s with schedule := rest }) ∧
    (s.source = none → step s = .next { s with schedule := rest }) ∧
    (∀ a, srcWait s = true → s.source = some a →
      (sourceAnswer c s.reqN a = none ∧ step s = .next { s with schedule := rest }) ∨
      (∃ r b, sourceAnswer c s.reqN a = some (r, b) ∧ r ≠ .none ∧
        step s = .next
          { s with schedule := rest, resp := r, source := some b, status := s.status &&& 0xFFFFFFF7#32 }))

/-- R142, R146: an answer is DATA of exactly the next n bytes, which are consumed, or END, or ERR; after END only END. -/
def Obligations.AnswersAreNeverShort : Prop :=
  ∀ (c : SourceChoice) (n : Nat) (a b : SourceAgent) (r : Response), sourceAnswer c n a = some (r, b) →
    b.bytes = a.bytes ∧ b.kind = a.kind ∧ (a.ended = true → r = .endOfInput) ∧ (r = .endOfInput → b.ended = true) ∧
    (∀ bytes, r = .data bytes → bytes.length = n ∧ bytes = (a.bytes.drop a.pos).take n ∧ b.pos = a.pos + n ∧
      b.ended = a.ended) ∧
    (r = .endOfInput ∨ r = .sourceError ∨ ∃ bytes, r = .data bytes)

/-- R144, R146, R149: a free agent may answer DATA it has, END or ERR, discarding any number of bytes with the last two, and
after END it may answer END. -/
def Obligations.FreeAgentMayAnswerAnything : Prop :=
  ∀ (n skipped : Nat) (bytes : List Byte) (p : Nat) (ended : Bool),
    (ended = false → p + n ≤ bytes.length →
      ∃ c, sourceAnswer c n ⟨bytes, p, ended, .free⟩ = some (.data ((bytes.drop p).take n), ⟨bytes, p + n, ended, .free⟩)) ∧
    (∃ c, sourceAnswer c n ⟨bytes, p, ended, .free⟩ = some (.endOfInput, ⟨bytes, p + skipped, true, .free⟩)) ∧
    (ended = false →
      ∃ c, sourceAnswer c n ⟨bytes, p, ended, .free⟩ = some (.sourceError, ⟨bytes, p + skipped, ended, .free⟩))

/-- R146, R150: ByteSourceOver, whichever choice a turn names: DATA while it has the bytes, else END with the rest discarded,
and END from then on; it has an answer to every request, and never ERR. -/
def Obligations.ByteSourceOverAnswersInOrder : Prop :=
  ∀ (c : SourceChoice) (bytes : List Byte) (p n : Nat), 1 ≤ n →
    (p + n ≤ bytes.length →
      sourceAnswer c n ⟨bytes, p, false, .over⟩ = some (.data ((bytes.drop p).take n), ⟨bytes, p + n, false, .over⟩)) ∧
    (bytes.length < p + n →
      sourceAnswer c n ⟨bytes, p, false, .over⟩ = some (.endOfInput, ⟨bytes, bytes.length, true, .over⟩)) ∧
    (∀ a, a.kind = .over → ∃ r b, sourceAnswer c n a = some (r, b) ∧ b.kind = .over ∧ r ≠ .sourceError ∧
      (r = .endOfInput → ∀ d m, 1 ≤ m → sourceAnswer d m b = some (.endOfInput, b)))

/-- R144, R147, R149, R223, R239: a DECODE whose request is not answered stays as it is, for the block, and for the machine too
where no agent is connected or a free agent, whose answering is never assumed. -/
def Obligations.UnansweredDecodeWaits : Prop :=
  ∀ s : State, s.phase = .decB0 ∨ s.phase = .decB1 ∨ s.phase = .decTail → srcWait s = true →
    exec .dec s = .next s ∧
    (s.hpv = false → s.schedule = [] → s.hostProgram = [] → (∀ a, s.source = some a → a.kind = .free) →
      step s = .next s)

/-! Decoder. -/

/-- R80, R162, R165, R167: what a DECODE does with frame byte 0, for every byte: an error, the one-byte frame's value, the request
for the T - 1 missing bytes, or the request for frame byte 1. -/
def Obligations.DecodeClassifiesFrameByte0 : Prop :=
  ∀ (s : State) (b : Byte), s.phase = .decB0 → srcWait s = false → s.resp = .data [b] → s.f = 0 →
    ∃ t, exec .dec s = .next t ∧ keepsOutside s t ∧ keepsEncoder s t ∧ t.resp = .none ∧ byteAt t.dbuf 0 = b ∧ t.nread = 1 ∧
      (b.toNat < 0x80 → completedWith t 0x00000056#32 0 0 (Vector.replicate 10 0#8)) ∧
      (0x80 ≤ b.toNat → b.toNat < 0xC0 →
        completedWith t 0x00000002#32 (b &&& 0x3F#8).toNat 1 (Vector.replicate 10 0#8)) ∧
      (∀ len, 2 ≤ len → len ≤ 7 → 0x100 - 2 ^ (8 - len) ≤ b.toNat → b.toNat < 0x100 - 2 ^ (7 - len) →
        requestedIn t .decTail (len - 1) (s.status ||| 0x00000008#32) ∧ t.frameT = len ∧ keepsResults s t) ∧
      (b.toNat = 0xFF → requestedIn t .decB1 1 (s.status ||| 0x00000008#32) ∧ t.f = 1 ∧ keepsResults s t)

/-- R80, R165, R168, R169: what a DECODE does with frame byte 1, for every byte. -/
def Obligations.DecodeClassifiesFrameByte1 : Prop :=
  ∀ (s : State) (b : Byte), s.phase = .decB1 → srcWait s = false → s.resp = .data [b] → s.f = 1 →
    ∃ t, exec .dec s = .next t ∧ keepsOutside s t ∧ keepsEncoder s t ∧ t.resp = .none ∧ byteAt t.dbuf 1 = b ∧ t.nread = 2 ∧
      (b.toNat < 0x80 → requestedIn t .decTail 6 (s.status ||| 0x00000008#32) ∧ t.frameT = 8 ∧ keepsResults s t) ∧
      (0x80 ≤ b.toNat → b.toNat < 0xC0 →
        requestedIn t .decTail 7 (s.status ||| 0x00000008#32) ∧ t.frameT = 9 ∧ keepsResults s t) ∧
      (b.toNat = 0xC0 → requestedIn t .decTail 8 (s.status ||| 0x00000008#32) ∧ t.frameT = 10 ∧ keepsResults s t) ∧
      (0xC1 ≤ b.toNat → b.toNat < 0xE0 → completedWith t 0x00000076#32 0 0 (Vector.replicate 10 0#8)) ∧
      (0xE0 ≤ b.toNat → completedWith t 0x00000066#32 0 0 (Vector.replicate 10 0#8))

/-- R170: the end of a DECODE: the payload bits of the terminating byte over the tail's bytes, exact in 64 bits. -/
def Obligations.DecodeAssemblesTheValue : Prop :=
  ∀ (s : State) (bytes : List Byte), s.phase = .decTail → srcWait s = false → s.resp = .data bytes →
    bytes.length = s.reqN → tailConsistent s = true →
    ∃ t, exec .dec s = .next t ∧ keepsOutside s t ∧ keepsEncoder s t ∧ t.resp = .none ∧
      completedWith t 0x00000002#32
        ((byteAt s.dbuf (s.nread - 1) &&& (0xFF#8 >>> (s.k + 1))).toNat * 2 ^ (8 * (s.frameT - s.nread)) + beVal bytes)
        s.frameT (Vector.replicate 10 0#8)

/-- R205, R206, R207: what END and ERR raise, by the request they answer. -/
def Obligations.DecodeReportsEndAndErr : Prop :=
  ∀ s : State, srcWait s = false →
    (s.phase = .decB0 → s.resp = .endOfInput →
      exec .dec s = .next
        { s with
          resp := .none, resValue := 0#64, resLen := 0#8, frame := Vector.replicate 10 0#8, status := 0x00000026#32
          phase := .idle }) ∧
    (s.phase = .decB1 ∨ s.phase = .decTail → s.resp = .endOfInput →
      exec .dec s = .next
        { s with
          resp := .none, resValue := 0#64, resLen := 0#8, frame := Vector.replicate 10 0#8, status := 0x00000036#32
          phase := .idle }) ∧
    (s.phase = .decB0 ∨ s.phase = .decB1 ∨ s.phase = .decTail → s.resp = .sourceError →
      exec .dec s = .next
        { s with
          resp := .none, resValue := 0#64, resLen := 0#8, frame := Vector.replicate 10 0#8, status := 0x00000046#32
          phase := .idle })

/-- R76, R82, R160, R172, R175: a DECODE of any frame of 1 to 10 bytes, canonical or not, wherever it stands in the stream of
ByteSourceOver, ends within seven steps with the frame's value and length, and has consumed exactly its bytes. -/
def Obligations.DecodeReturnsEveryFrame : Prop :=
  ∀ (s : State) (t v : Nat) (before after : List Byte), 1 ≤ t → t ≤ 10 → v < 2 ^ (7 * t - 1) → v < 2 ^ 64 →
    s.hpv = false → s.schedule = [] → s.phase = .decStart → s.op = some 0x02#8 → s.status = 0x00000001#32 →
    s.source = some ⟨before ++ frameBytes t v ++ after, before.length, false, .over⟩ →
    ∃ k u, k ≤ 7 ∧ Sys2Proof.core.run k s = .next u ∧
      completedWith u 0x00000002#32 v t (Vector.replicate 10 0#8) ∧
      u.source = some ⟨before ++ frameBytes t v ++ after, before.length + t, false, .over⟩ ∧
      u.arg = s.arg ∧ u.hostProgram = s.hostProgram ∧ u.hostReads = s.hostReads

/-- R174: the round trip: the bytes an ENC leaves in FRAME, given to a DEC by ByteSourceOver, come back as the value and
the length, which is minimalFrameBytes(sigBits(v)). -/
def Obligations.EncThenDecRoundTrip : Prop :=
  ∀ (s s' : State) (v : Value), s.hpv = false → s.schedule = [] → s.phase = .exec → s.op = some 0x01#8 →
    s.status = 0x00000001#32 → s.opnd = some v →
    s'.hpv = false → s'.schedule = [] → s'.phase = .decStart → s'.op = some 0x02#8 → s'.status = 0x00000001#32 →
    ∃ e, step s = .next e ∧ done e = true ∧ error e = false ∧
      e.resLen.toNat = minimalFrameBytes (sigBits v) ∧
      (s'.source = some ⟨e.frame.toList.take e.resLen.toNat, 0, false, .over⟩ →
        ∃ k u, k ≤ 7 ∧ Sys2Proof.core.run k s' = .next u ∧ u.phase = .idle ∧ u.status = 0x00000002#32 ∧
          u.resValue = v ∧ u.resLen = e.resLen)

/-- R176: a DECODE over all but the last byte of a frame ends with an error and no value. -/
def Obligations.TruncatedFrameIsAnError : Prop :=
  ∀ (s : State) (t v : Nat) (before : List Byte), 1 ≤ t → t ≤ 10 → v < 2 ^ (7 * t - 1) → v < 2 ^ 64 →
    s.hpv = false → s.schedule = [] → s.phase = .decStart → s.op = some 0x02#8 → s.status = 0x00000001#32 →
    s.source = some ⟨before ++ (frameBytes t v).take (t - 1), before.length, false, .over⟩ →
    ∃ k u, k ≤ 7 ∧ Sys2Proof.core.run k s = .next u ∧
      completedWith u (if t = 1 then 0x00000026#32 else 0x00000036#32) 0 0 (Vector.replicate 10 0#8)

/-- R145, R161, R239: whatever the source agent is and whatever it has answered, each step of the block in a DECODE brings it
nearer to completion: it takes at most four. -/
def Obligations.DecodeStepsMakeProgress : Prop :=
  ∀ s : State, inv s = true → inDecode s = true → srcWait s = false →
    ∃ t, exec .dec s = .next t ∧ decodeStepsLeft t.phase < decodeStepsLeft s.phase ∧ decodeStepsLeft s.phase ≤ 4 ∧
      (decodeStepsLeft t.phase = 0 → done t = true)

/-- R150, R239: a DECODE over ByteSourceOver, whatever it holds, completes after at most seven steps of the eager schedule (log 2). -/
def Obligations.AnsweredDecodeCompletes : Prop :=
  ∀ (s : State) (a : SourceAgent), inv s = true → s.hpv = false → s.schedule = [] → inDecode s = true →
    s.source = some a → a.kind = .over →
    ∃ k u, k ≤ 7 ∧ Sys2Proof.core.run k s = .next u ∧ u.phase = .idle ∧ busy u = false ∧ done u = true

/-! Reserved opcodes. -/

/-- R208: a reserved opcode completes in one step with ILLEGAL_COMMAND, reads no operand and touches no ByteSource. -/
def Obligations.ReservedOpcodeIsIllegalCommand : Prop :=
  ∀ (s : State) (c : Byte), s.phase = .exec →
    exec (.reserved c) s = .next
      { s with
        resValue := 0#64, resLen := 0#8, frame := Vector.replicate 10 0#8, status := 0x00000086#32, phase := .idle }

/-! The host. -/

/-- R200: a write to CMD while BUSY = 0 that is no violation is accepted in that step: what it latches, STATUS and the phase. -/
def Obligations.CmdWriteIsAccepted : Prop :=
  ∀ (s : State) (c : Byte) (prog : List HostStmt) (rest : List Turn), s.hpv = false → s.schedule = .host :: rest →
    s.hostProgram = .access (.write 0x00 1 (c.setWidth 64)) :: prog → busy s = false →
    (c = 0x01#8 ∨ c = 0x03#8 ∨ c = 0x04#8 → s.arg ≠ none) →
    step s = .next
      { s with
        hostProgram := prog, schedule := rest, op := some c, opnd := s.arg, status := 0x00000001#32
        phase := if c = 0x02#8 then .decStart else .exec }

/-- R24, R58: a write to ARG while BUSY = 0 stores the operand and does nothing else. -/
def Obligations.ArgWriteStoresTheOperand : Prop :=
  ∀ (s : State) (v : Value) (prog : List HostStmt) (rest : List Turn), s.hpv = false → s.schedule = .host :: rest →
    s.hostProgram = .access (.write 0x08 8 v) :: prog → busy s = false →
    step s = .next { s with hostProgram := prog, schedule := rest, arg := some v }

/-- R30, R53, R58: each permitted read hands the host the register's number (log 15 keeps it) and changes nothing of the block. -/
def Obligations.ReadsReturnTheRegister : Prop :=
  ∀ (s : State) (o : Fin 64) (w : Nat) (prog : List HostStmt) (rest : List Turn), s.hpv = false →
    s.schedule = .host :: rest → s.hostProgram = .access (.read o w) :: prog →
    (∀ d : Value,
      (o = 0x08 ∧ w = 8 ∧ s.arg = some d) ∨ (o = 0x10 ∧ w = 4 ∧ d = s.status.setWidth 64) ∨
      (done s = true ∧
        ((o = 0x18 ∧ w = 8 ∧ d = s.resValue) ∨ (o = 0x20 ∧ w = 1 ∧ d = s.resLen.setWidth 64) ∨
          ∃ j : Fin 10, o.val = 0x28 + j.val ∧ w = 1 ∧ d = s.frame[j].setWidth 64)) →
      step s = .next { s with hostProgram := prog, schedule := rest, hostReads := ⟨o, w, d⟩ :: s.hostReads })

/-- R210, R211: each of the six host-protocol violations sets the mark, with its own name, and does nothing else; and the run is
faulted: the marked state takes no step (log 9 says which is named where two hold). -/
def Obligations.HostProtocolViolationsStop : Prop :=
  ∀ (s : State) (a : Access) (prog : List HostStmt) (rest : List Turn), s.hpv = false → s.schedule = .host :: rest →
    s.hostProgram = .access a :: prog →
    (∀ v, step (markedBy v prog rest s) = .fault .hpvMarkSet) ∧
    (∀ d, a = .write 0x00 1 d → busy s = true → step s = .next (markedBy .cmdWriteWhileBusy prog rest s)) ∧
    (∀ d, a = .write 0x08 8 d → busy s = true → step s = .next (markedBy .argWriteWhileBusy prog rest s)) ∧
    (∀ o w, a = .read o w → done s = false →
      (o = 0x18 ∧ w = 8) ∨ (0x20 = o ∧ w = 1) ∨ (0x28 ≤ o.val ∧ o.val ≤ 0x31 ∧ w = 1) →
      step s = .next (markedBy .resultReadWhileNotDone prog rest s)) ∧
    (a = .read 0x00 1 → step s = .next (markedBy .wrongDirection prog rest s)) ∧
    (∀ o w d, a = .write o w d →
      (o = 0x10 ∧ w = 4) ∨ (o = 0x18 ∧ w = 8) ∨ (o = 0x20 ∧ w = 1) ∨ (0x28 ≤ o.val ∧ o.val ≤ 0x31 ∧ w = 1) →
      step s = .next (markedBy .wrongDirection prog rest s)) ∧
    (∀ o w, (a = .read o w ∨ ∃ d, a = .write o w d) →
      ¬(o = 0x00 ∧ w = 1) → ¬(o = 0x08 ∧ w = 8) → ¬(o = 0x10 ∧ w = 4) → ¬(o = 0x18 ∧ w = 8) → ¬(o = 0x20 ∧ w = 1) →
      ¬(0x28 ≤ o.val ∧ o.val ≤ 0x31 ∧ w = 1) → step s = .next (markedBy .badOffsetOrWidth prog rest s)) ∧
    (a = .read 0x08 8 → s.arg = none → step s = .next (markedBy .argHoldsNoValue prog rest s)) ∧
    (∀ c : Byte, a = .write 0x00 1 (c.setWidth 64) → (c = 0x01#8 ∨ c = 0x03#8 ∨ c = 0x04#8) → busy s = false →
      s.arg = none → step s = .next (markedBy .argHoldsNoValue prog rest s))

/-- R75: a command that reads ARG and finds no operand latched is that violation too, in states no run reaches (log 26). -/
def Obligations.OperandlessCommandIsMarked : Prop :=
  ∀ (i : Instr) (s : State), readsArg i = true → s.phase = .exec → s.opnd = none →
    exec i s = .next { s with hpv := true, violation := some .argHoldsNoValue }

/-- R84, R150: SRC connects ByteSourceOver of its bytes, at their first one; RESET is the platform's reset. -/
def Obligations.SrcAndResetStatements : Prop :=
  ∀ (s : State) (prog : List HostStmt) (rest : List Turn), s.hpv = false → s.schedule = .host :: rest →
    (∀ bytes, s.hostProgram = .src bytes :: prog →
      step s = .next { s with hostProgram := prog, schedule := rest, source := some ⟨bytes, 0, false, .over⟩ }) ∧
    (s.hostProgram = .reset :: prog → step s = step { s with hostProgram := prog, schedule := .reset :: rest })

/-- R84: WAIT reads STATUS and goes on to the next statement exactly when DONE = 1 (log 22). -/
def Obligations.WaitReadsStatusUntilDone : Prop :=
  ∀ (s : State) (prog : List HostStmt) (rest : List Turn), s.hpv = false → s.schedule = .host :: rest →
    s.hostProgram = .wait :: prog →
    step s = .next
      { s with
        schedule := rest, hostReads := ⟨0x10, 4, s.status.setWidth 64⟩ :: s.hostReads
        hostProgram := if done s then prog else .wait :: prog }

/-- R54: whatever BUS_BYTE_ORDER is, the host composes from a register's bytes the number it holds. -/
def Obligations.BusByteOrderKeepsTheNumber : Prop :=
  ∀ width v : Nat, v < 2 ^ (8 * width) →
    (busLanes Config.busByteOrder width v).length = width ∧
    busNumber Config.busByteOrder (busLanes Config.busByteOrder width v) = v

/-! Reset. -/

/-- R230, R231: what a reset leaves, at any time: the block IDLE with STATUS 0, no operand, no command, no request; results
unreadable; the mark, the host and the turns to come as before. -/
def Obligations.ResetReturnsTheBlockToIdle : Prop :=
  ∀ (s : State) (rest : List Turn), s.hpv = false → s.schedule = .reset :: rest →
    ∃ t, step s = .next t ∧ t.phase = .idle ∧ t.status = 0x00000000#32 ∧ t.arg = none ∧ t.op = none ∧ t.opnd = none ∧
      t.resp = .none ∧ srcWait t = false ∧ readableResults t = none ∧ t.hpv = s.hpv ∧
      t.violation = s.violation ∧ t.schedule = rest ∧
      t.hostProgram = s.hostProgram ∧ t.hostReads = s.hostReads ∧
      (inDecode s = false → t.source = s.source)

/-- R232: a reset during an operation reports neither result nor error, and withdraws an outstanding request: no later answer
is taken. After a reset during a DECODE the agent has the same stream, at the open parameter's position. -/
def Obligations.ResetAbandonsTheOperation : Prop :=
  ∀ (s : State) (c : SourceChoice) (rest : List Turn), s.hpv = false → s.schedule = .reset :: .source c :: rest →
    busy s = true →
    ∃ t u, step s = .next t ∧ busy t = false ∧ done t = false ∧ error t = false ∧ errCode t = 0#4 ∧
      step t = .next u ∧ u = { t with schedule := rest } ∧
      (∀ a, inDecode s = true → s.source = some a →
        t.source = some { a with pos := Config.srcPosAfterReset s.freeDraws })

/-! Frames. -/

/-- R213, R121: the frame of the one-step operations: ARG, the latched command, the source agent, the host, the decoder's staging
state and the mark are unchanged, but for the mark where a command that reads ARG has no operand (R75); MFB, PCB and the
reserved opcodes leave the encoder's buffer too. Where the phase is not EXEC nothing at all changes (log 3). -/
def Obligations.OneStepOperationsFrame : Prop :=
  ∀ (i : Instr) (s t : State), i ≠ .dec → exec i s = .next t →
    (keepsOutside s t ∨ (readsArg i = true ∧ s.phase = .exec ∧ s.opnd = none ∧
      t = { s with hpv := true, violation := some .argHoldsNoValue })) ∧
    keepsDecoder s t ∧ (i ≠ .enc → keepsEncoder s t) ∧ (s.phase ≠ .exec → t = s)

/-- R213, R173: the frame of DEC: ARG, the latched command, the source agent, the host, the encoder's buffer and the mark are
unchanged; the results change only in the step that leaves the DECODE; of STATUS a step short of that changes SRC_WAIT alone. -/
def Obligations.DecodeFrame : Prop :=
  ∀ s t : State, exec .dec s = .next t →
    keepsOutside s t ∧ keepsEncoder s t ∧
    (t.phase ≠ .idle → keepsResults s t ∧ (t.status = s.status ∨ t.status = s.status ||| 0x00000008#32)) ∧
    (inDecode s = false → t = s)

/-- R203, R173: an operation that completes with an error leaves 0 in RES_VALUE, RES_LEN and all of FRAME, and STATUS is
0x06 + (code << 4) with a code of the table. -/
def Obligations.ErrorsLeaveNoResult : Prop :=
  ∀ (i : Instr) (s t : State), exec i s = .next t → s.phase ≠ .idle → t.phase = .idle →
    (t.status = 0x00000002#32 ∨
      (t.resValue = 0#64 ∧ t.resLen = 0#8 ∧ t.frame = Vector.replicate 10 0#8 ∧
        ∃ code : Nat, 1 ≤ code ∧ code ≤ 8 ∧ t.status.toNat = 0x06 + code * 16 ∧ errCode t = BitVec.ofNat 4 code))

/-! The whole machine. -/

/-- R27, R28, R29, R36: over every step of every agent, the result registers change only in a completion (the phase goes
to IDLE with DONE = 1) or a reset. -/
def Obligations.ResultsChangeOnlyAtCompletionOrReset : Prop :=
  ∀ s t : State, step s = .next t → ¬keepsResults s t →
    (s.phase ≠ .idle ∧ t.phase = .idle ∧ done t = true) ∨ (t.phase = .idle ∧ t.status = 0x00000000#32 ∧ t.arg = none)

/-- R36: over every step of every agent, STATUS changes only at the events of the table, to the values it lists: a reset, an
acceptance, a request, an answer, a completion. -/
def Obligations.StatusChangesOnlyAtTheListedEvents : Prop :=
  ∀ s t : State, inv s = true → step s = .next t →
    t.status = s.status ∨
    (t.status = 0x00000000#32 ∧ t.phase = .idle ∧ t.arg = none ∧ t.op = none) ∨
    (busy s = false ∧ t.status = 0x00000001#32 ∧ t.phase ≠ .idle ∧ t.op ≠ none) ∨
    (inDecode s = true ∧ inDecode t = true ∧ s.status = 0x00000001#32 ∧ t.status = 0x00000009#32) ∨
    (srcWait s = true ∧ t.phase = s.phase ∧ s.status = 0x00000009#32 ∧ t.status = 0x00000001#32 ∧ t.resp ≠ .none) ∨
    (s.phase ≠ .idle ∧ t.phase = .idle ∧ s.status = 0x00000001#32 ∧
      (t.status = 0x00000002#32 ∨ ∃ e, t.status.toNat = 0x06 + (codeOf e).toNat * 16))

/-- R24, R32, R64, R235: over every step of every agent, ARG changes only by a host write while BUSY = 0 or by a reset, and the
latched command changes only at an acceptance while BUSY = 0, which latches ARG, or by a reset. -/
def Obligations.OperandIsLatchedOnlyAtAcceptance : Prop :=
  ∀ s t : State, step s = .next t →
    (t.arg = s.arg ∨ (busy s = false ∧ ∃ d, t.arg = some d) ∨ (t.arg = none ∧ t.op = none ∧ t.opnd = none)) ∧
    ((t.op = s.op ∧ t.opnd = s.opnd) ∨
      (busy s = false ∧ t.op ≠ none ∧ t.opnd = s.arg ∧ t.status = 0x00000001#32) ∨
      (t.arg = none ∧ t.op = none ∧ t.opnd = none))

/-- The invariant of the block holds right after reset. -/
def Obligations.InvariantHoldsAtReset : Prop := inv State.reset = true

/-- R26, R28, R31, R34, R36: every step of every agent keeps the invariant of the block, from every state that has it. -/
def Obligations.StepKeepsTheInvariant : Prop :=
  ∀ s t : State, inv s = true → step s = .next t → inv t = true

/-- R26, R28, R59, R141: what the invariant says of STATUS, of RES_LEN and of the outstanding request. -/
def Obligations.InvariantGivesTheStatusRules : Prop :=
  ∀ s : State, inv s = true →
    (busy s = true → done s = false) ∧ (error s = true → done s = true) ∧ (errCode s ≠ 0#4 ↔ error s = true) ∧
    (srcWait s = true → busy s = true ∧ s.op = some 0x02#8 ∧ 1 ≤ s.reqN ∧ s.reqN ≤ 8) ∧
    (busy s = true ↔ s.phase ≠ .idle) ∧ statusReserved s = 0#24 ∧ s.resLen.toNat ≤ 10

/-- R30, R34, R125, U7: leftovers of earlier operations in the working and staging buffers, and results that are not readable,
never reach anything an access can show: two runs that differ only in them go on so, step for step. -/
def Obligations.LeftoversAreNeverObservable : Prop :=
  ∀ s t : State, inv s = true → inv t = true → differOnlyInLeftovers s t → outcomesAgree (step s) (step t)
end

