-- ==== Sys2Proof/Laws/Bytes.lean ====
section
/-! SUPPORT. Laws of byte sequences, of leading-one counts and of the ten-byte buffers. -/

namespace Sys2Proof.Machine

@[simp] theorem length_beBytes (n v : Nat) : (beBytes n v).length = n := by
  induction n with
  | zero => rfl
  | succ n ih => simp [beBytes, ih]

/-- A byte sequence's value is below 2^(8 * length). -/
theorem beVal_lt (bs : List Byte) : beVal bs < 2 ^ (8 * bs.length) := by
  induction bs with
  | nil => simp [beVal]
  | cons b bs ih =>
    have hb := b.isLt
    have : 2 ^ (8 * (bs.length + 1)) = 256 * 2 ^ (8 * bs.length) := by
      rw [Nat.mul_add, Nat.pow_add]; ring
    simp only [beVal, List.length_cons, this]
    nlinarith

/-- BEval of BE_n(v) is v reduced to n bytes (00_scope R14). -/
theorem beVal_beBytes (n v : Nat) : beVal (beBytes n v) = v % 2 ^ (8 * n) := by
  induction n with
  | zero => simp [beBytes, beVal, Nat.mod_one]
  | succ n ih =>
    have h : 2 ^ (8 * (n + 1)) = 2 ^ (8 * n) * 2 ^ 8 := by rw [← Nat.pow_add]; congr 1
    simp only [beBytes, beVal, ih, length_beBytes, BitVec.toNat_ofNat, h, Nat.mod_mul]
    ring

theorem beVal_beBytes_of_lt {n v : Nat} (h : v < 2 ^ (8 * n)) : beVal (beBytes n v) = v := by
  rw [beVal_beBytes, Nat.mod_eq_of_lt h]

/-- BE_n(v) sees only v reduced to n bytes, so bits above them may be dropped. -/
theorem beBytes_add_mul (n v x : Nat) : beBytes n (x * 2 ^ (8 * n) + v) = beBytes n v := by
  induction n generalizing x with
  | zero => rfl
  | succ n ih =>
    have h : x * 2 ^ (8 * (n + 1)) = (x * 2 ^ 8) * 2 ^ (8 * n) := by rw [Nat.mul_add, Nat.pow_add]; ring
    simp only [beBytes, h, ih, List.cons.injEq, and_true]
    apply BitVec.eq_of_toNat_eq
    rw [Nat.mul_comm, Nat.mul_add_div (by positivity)]
    simp [Nat.add_mod]

/-- The run of a frame occupies the bits above its 7t - 1 payload bits and the terminator (30_encoding R77). -/
theorem frameInt_eq {t v : Nat} (h : v < 2 ^ (7 * t)) : frameInt t v = (2 ^ t - 1) * 2 ^ (7 * t) + v := by
  rw [frameInt, ← Nat.shiftLeft_add_eq_or_of_lt h, Nat.shiftLeft_eq]

@[simp] theorem length_frameBytes (t v : Nat) : (frameBytes t v).length = t := length_beBytes t _

@[simp] theorem tenBytes_nil : tenBytes [] = Vector.replicate 10 0#8 := by decide

/-- Byte j of ten bytes made from a sequence (10_state R29). -/
theorem getElem_tenBytes (bytes : List Byte) (j : Fin 10) : (tenBytes bytes)[j] = bytes.getD j.val 0#8 := by
  fin_cases j <;> rfl

set_option maxRecDepth 100000 in
/-- The leading ones of a byte, by its range (30_encoding R78, R80), and the payload bits under them. -/
theorem clo8_of_range : ∀ (t : Fin 8) (b : Byte), 0x100 - 2 ^ (8 - t.val) ≤ b.toNat → b.toNat < 0x100 - 2 ^ (7 - t.val) →
    clo8 b = t.val ∧ (headBits b t.val).toNat = b.toNat - (0x100 - 2 ^ (8 - t.val)) := by
  decide +revert

/-- A byte below 0x80 has no leading ones (43_decoder R167). -/
theorem clo8_of_lt {b : Byte} (h : b.toNat < 0x80) : clo8 b = 0 := (clo8_of_range 0 b (by simp) (by simpa using h)).1

/-- An empty range of bytes. -/
theorem sliceBytes_of_le (v : TenBytes) (i j : Nat) (h : j ≤ i) : sliceBytes v i j = [] := by
  simp [sliceBytes]; omega

/-- The ten bytes after a write: what stood before, the bytes, what stood after. -/
theorem toList_storeBytes (bs : List Byte) (i : Nat) (v : TenBytes) (h : i + bs.length ≤ 10) :
    (storeBytes bs i v).toList = v.toList.take i ++ bs ++ v.toList.drop (i + bs.length) := by
  induction bs generalizing i v with
  | nil => simp [storeBytes]
  | cons b bs ih =>
    simp only [List.length_cons] at h
    simp only [storeBytes]
    rw [ih _ _ (by omega)]
    have hl : v.toList.length = 10 := by simp
    have : (v.setIfInBounds i b).toList = v.toList.take i ++ b :: v.toList.drop (i + 1) := by
      rw [Vector.toList_setIfInBounds, List.set_eq_take_append_cons_drop, if_pos (by omega)]
    rw [this]
    have h1 : (v.toList.take i).length = i := by simp; omega
    rw [List.take_append, List.drop_append, h1]
    simp only [List.length_cons]
    rw [show i + 1 - i = 1 by omega, List.take_of_length_le (by omega : (v.toList.take i).length ≤ i + 1)]
    rw [List.drop_eq_nil_of_le (by omega : (v.toList.take i).length ≤ i + 1 + bs.length)]
    simp only [List.take_succ_cons, List.take_zero, List.nil_append, List.append_assoc, List.cons_append]
    rw [show i + 1 + bs.length - i = bs.length + 1 by omega, List.drop_succ_cons, List.drop_drop]
    rw [show i + 1 + bs.length = i + (bs.length + 1) by omega]

/-- Reading back what was written. -/
theorem sliceBytes_storeBytes (bs : List Byte) (i : Nat) (v : TenBytes) (h : i + bs.length ≤ 10) :
    sliceBytes (storeBytes bs i v) i (i + bs.length) = bs := by
  have hl : v.toList.length = 10 := by simp
  have h1 : (v.toList.take i).length = i := by simp; omega
  rw [sliceBytes, toList_storeBytes _ _ _ h, List.take_append_of_le_length (by simp; omega)]
  rw [List.take_of_length_le (by simp), List.drop_append, h1]
  simp

/-- Byte i of ten bytes, through their list. -/
theorem byteAt_eq_getD (v : TenBytes) (i : Nat) : byteAt v i = v.toList.getD i 0#8 := by
  unfold byteAt Vector.getD
  rw [Array.getD_eq_getD_getElem?, List.getD_eq_getElem?_getD]; simp

/-- A write leaves the bytes below it alone. -/
theorem byteAt_storeBytes_of_lt (bs : List Byte) (i j : Nat) (v : TenBytes) (h : i + bs.length ≤ 10) (hj : j < i) :
    byteAt (storeBytes bs i v) j = byteAt v j := by
  have hl : v.toList.length = 10 := by simp
  have h1 : (v.toList.take i).length = i := by simp; omega
  rw [byteAt_eq_getD, byteAt_eq_getD, toList_storeBytes _ _ _ h, List.append_assoc]
  rw [List.getD_append _ _ _ _ (by omega)]
  rw [List.getD_eq_getElem _ _ (by omega), List.getD_eq_getElem _ _ (by omega)]
  simp

/-- The payload bits of a terminating byte with k leading ones fit in 7 - k bits. -/
theorem headBits_lt (b : Byte) (k : Nat) (hk : k ≤ 7) : (headBits b k).toNat < 2 ^ (7 - k) := by
  unfold headBits
  have : (b &&& (0xFF#8 >>> (k + 1))).toNat ≤ (0xFF#8 >>> (k + 1)).toNat := by
    simp only [BitVec.toNat_and]; exact Nat.and_le_right
  refine lt_of_le_of_lt this ?_
  interval_cases k <;> decide

/-- A byte other than 0xFF has at most seven leading ones (30_encoding R80). -/
theorem clo8_le_seven (b : Byte) (h : b ≠ 0xFF#8) : clo8 b ≤ 7 := by
  have hb' : b.toNat ≠ 0xFF := fun hh => h (BitVec.eq_of_toNat_eq (by simpa using hh))
  have := b.isLt
  have key : ∀ k, k ≤ 7 → 0x100 - 2 ^ (8 - k) ≤ b.toNat → b.toNat < 0x100 - 2 ^ (7 - k) → clo8 b ≤ 7 := by
    intro k hk h1 h2
    have := (clo8_of_range ⟨k, by omega⟩ b h1 h2).1; simp only at this; omega
  by_cases a1 : b.toNat < 0x80; · exact key 0 (by omega) (by omega) (by omega)
  by_cases a1 : b.toNat < 0xC0; · exact key 1 (by omega) (by omega) (by omega)
  by_cases a1 : b.toNat < 0xE0; · exact key 2 (by omega) (by omega) (by omega)
  by_cases a1 : b.toNat < 0xF0; · exact key 3 (by omega) (by omega) (by omega)
  by_cases a1 : b.toNat < 0xF8; · exact key 4 (by omega) (by omega) (by omega)
  by_cases a1 : b.toNat < 0xFC; · exact key 5 (by omega) (by omega) (by omega)
  by_cases a1 : b.toNat < 0xFE; · exact key 6 (by omega) (by omega) (by omega)
  exact key 7 (by omega) (by omega) (by omega)

end Sys2Proof.Machine
end

