-- ==== Sys2Proof/Laws/State.lean ====
section
/-! SUPPORT. What each shared update leaves in each field of the state. -/

namespace Sys2Proof.Machine

section Finish
variable (v : Value) (l : Byte) (fr : TenBytes) (st : Word32) (s : State)

@[simp] theorem finish_arg : (finish v l fr st s).arg = s.arg := rfl
@[simp] theorem finish_status : (finish v l fr st s).status = st := rfl
@[simp] theorem finish_resValue : (finish v l fr st s).resValue = v := rfl
@[simp] theorem finish_resLen : (finish v l fr st s).resLen = l := rfl
@[simp] theorem finish_frame : (finish v l fr st s).frame = fr := rfl
@[simp] theorem finish_phase : (finish v l fr st s).phase = .idle := rfl
@[simp] theorem finish_op : (finish v l fr st s).op = s.op := rfl
@[simp] theorem finish_opnd : (finish v l fr st s).opnd = s.opnd := rfl
@[simp] theorem finish_ebuf : (finish v l fr st s).ebuf = s.ebuf := rfl
@[simp] theorem finish_t0 : (finish v l fr st s).t0 = s.t0 := rfl
@[simp] theorem finish_dbuf : (finish v l fr st s).dbuf = s.dbuf := rfl
@[simp] theorem finish_nread : (finish v l fr st s).nread = s.nread := rfl
@[simp] theorem finish_f : (finish v l fr st s).f = s.f := rfl
@[simp] theorem finish_k : (finish v l fr st s).k = s.k := rfl
@[simp] theorem finish_frameT : (finish v l fr st s).frameT = s.frameT := rfl
@[simp] theorem finish_reqN : (finish v l fr st s).reqN = s.reqN := rfl
@[simp] theorem finish_resp : (finish v l fr st s).resp = s.resp := rfl
@[simp] theorem finish_source : (finish v l fr st s).source = s.source := rfl
@[simp] theorem finish_hostProgram : (finish v l fr st s).hostProgram = s.hostProgram := rfl
@[simp] theorem finish_hostReads : (finish v l fr st s).hostReads = s.hostReads := rfl
@[simp] theorem finish_schedule : (finish v l fr st s).schedule = s.schedule := rfl
@[simp] theorem finish_freeDraws : (finish v l fr st s).freeDraws = s.freeDraws := rfl
@[simp] theorem finish_hpv : (finish v l fr st s).hpv = s.hpv := rfl
@[simp] theorem finish_violation : (finish v l fr st s).violation = s.violation := rfl

end Finish

section Complete
variable (v : Value) (l : Byte) (fr : TenBytes) (s : State)

@[simp] theorem complete_arg : (complete v l fr s).arg = s.arg := rfl
@[simp] theorem complete_status : (complete v l fr s).status = statusDone := rfl
@[simp] theorem complete_resValue : (complete v l fr s).resValue = v := rfl
@[simp] theorem complete_resLen : (complete v l fr s).resLen = l := rfl
@[simp] theorem complete_frame : (complete v l fr s).frame = fr := rfl
@[simp] theorem complete_phase : (complete v l fr s).phase = .idle := rfl
@[simp] theorem complete_op : (complete v l fr s).op = s.op := rfl
@[simp] theorem complete_opnd : (complete v l fr s).opnd = s.opnd := rfl
@[simp] theorem complete_ebuf : (complete v l fr s).ebuf = s.ebuf := rfl
@[simp] theorem complete_t0 : (complete v l fr s).t0 = s.t0 := rfl
@[simp] theorem complete_dbuf : (complete v l fr s).dbuf = s.dbuf := rfl
@[simp] theorem complete_nread : (complete v l fr s).nread = s.nread := rfl
@[simp] theorem complete_f : (complete v l fr s).f = s.f := rfl
@[simp] theorem complete_k : (complete v l fr s).k = s.k := rfl
@[simp] theorem complete_frameT : (complete v l fr s).frameT = s.frameT := rfl
@[simp] theorem complete_reqN : (complete v l fr s).reqN = s.reqN := rfl
@[simp] theorem complete_resp : (complete v l fr s).resp = s.resp := rfl
@[simp] theorem complete_source : (complete v l fr s).source = s.source := rfl
@[simp] theorem complete_hostProgram : (complete v l fr s).hostProgram = s.hostProgram := rfl
@[simp] theorem complete_hostReads : (complete v l fr s).hostReads = s.hostReads := rfl
@[simp] theorem complete_schedule : (complete v l fr s).schedule = s.schedule := rfl
@[simp] theorem complete_freeDraws : (complete v l fr s).freeDraws = s.freeDraws := rfl
@[simp] theorem complete_hpv : (complete v l fr s).hpv = s.hpv := rfl
@[simp] theorem complete_violation : (complete v l fr s).violation = s.violation := rfl

end Complete

section RaiseError
variable (e : ArchError) (s : State)

@[simp] theorem raiseError_arg : (raiseError e s).arg = s.arg := rfl
@[simp] theorem raiseError_status : (raiseError e s).status = statusError e := rfl
@[simp] theorem raiseError_resValue : (raiseError e s).resValue = 0#64 := rfl
@[simp] theorem raiseError_resLen : (raiseError e s).resLen = 0#8 := rfl
@[simp] theorem raiseError_frame : (raiseError e s).frame = tenBytes [] := rfl
@[simp] theorem raiseError_phase : (raiseError e s).phase = .idle := rfl
@[simp] theorem raiseError_op : (raiseError e s).op = s.op := rfl
@[simp] theorem raiseError_opnd : (raiseError e s).opnd = s.opnd := rfl
@[simp] theorem raiseError_ebuf : (raiseError e s).ebuf = s.ebuf := rfl
@[simp] theorem raiseError_t0 : (raiseError e s).t0 = s.t0 := rfl
@[simp] theorem raiseError_dbuf : (raiseError e s).dbuf = s.dbuf := rfl
@[simp] theorem raiseError_nread : (raiseError e s).nread = s.nread := rfl
@[simp] theorem raiseError_f : (raiseError e s).f = s.f := rfl
@[simp] theorem raiseError_k : (raiseError e s).k = s.k := rfl
@[simp] theorem raiseError_frameT : (raiseError e s).frameT = s.frameT := rfl
@[simp] theorem raiseError_reqN : (raiseError e s).reqN = s.reqN := rfl
@[simp] theorem raiseError_resp : (raiseError e s).resp = s.resp := rfl
@[simp] theorem raiseError_source : (raiseError e s).source = s.source := rfl
@[simp] theorem raiseError_hostProgram : (raiseError e s).hostProgram = s.hostProgram := rfl
@[simp] theorem raiseError_hostReads : (raiseError e s).hostReads = s.hostReads := rfl
@[simp] theorem raiseError_schedule : (raiseError e s).schedule = s.schedule := rfl
@[simp] theorem raiseError_freeDraws : (raiseError e s).freeDraws = s.freeDraws := rfl
@[simp] theorem raiseError_hpv : (raiseError e s).hpv = s.hpv := rfl
@[simp] theorem raiseError_violation : (raiseError e s).violation = s.violation := rfl

end RaiseError

section LatchCommand
variable (c : Byte) (o : Option Value) (s : State)

@[simp] theorem latchCommand_arg : (latchCommand c o s).arg = s.arg := rfl
@[simp] theorem latchCommand_status : (latchCommand c o s).status = statusAccepted := rfl
@[simp] theorem latchCommand_resValue : (latchCommand c o s).resValue = s.resValue := rfl
@[simp] theorem latchCommand_resLen : (latchCommand c o s).resLen = s.resLen := rfl
@[simp] theorem latchCommand_frame : (latchCommand c o s).frame = s.frame := rfl
@[simp] theorem latchCommand_phase : (latchCommand c o s).phase = if c = 0x02#8 then .decStart else .exec := rfl
@[simp] theorem latchCommand_op : (latchCommand c o s).op = some c := rfl
@[simp] theorem latchCommand_opnd : (latchCommand c o s).opnd = o := rfl
@[simp] theorem latchCommand_ebuf : (latchCommand c o s).ebuf = s.ebuf := rfl
@[simp] theorem latchCommand_t0 : (latchCommand c o s).t0 = s.t0 := rfl
@[simp] theorem latchCommand_dbuf : (latchCommand c o s).dbuf = s.dbuf := rfl
@[simp] theorem latchCommand_nread : (latchCommand c o s).nread = s.nread := rfl
@[simp] theorem latchCommand_f : (latchCommand c o s).f = s.f := rfl
@[simp] theorem latchCommand_k : (latchCommand c o s).k = s.k := rfl
@[simp] theorem latchCommand_frameT : (latchCommand c o s).frameT = s.frameT := rfl
@[simp] theorem latchCommand_reqN : (latchCommand c o s).reqN = s.reqN := rfl
@[simp] theorem latchCommand_resp : (latchCommand c o s).resp = s.resp := rfl
@[simp] theorem latchCommand_source : (latchCommand c o s).source = s.source := rfl
@[simp] theorem latchCommand_hostProgram : (latchCommand c o s).hostProgram = s.hostProgram := rfl
@[simp] theorem latchCommand_hostReads : (latchCommand c o s).hostReads = s.hostReads := rfl
@[simp] theorem latchCommand_schedule : (latchCommand c o s).schedule = s.schedule := rfl
@[simp] theorem latchCommand_freeDraws : (latchCommand c o s).freeDraws = s.freeDraws := rfl
@[simp] theorem latchCommand_hpv : (latchCommand c o s).hpv = s.hpv := rfl
@[simp] theorem latchCommand_violation : (latchCommand c o s).violation = s.violation := rfl

end LatchCommand

section RequestBytes
variable (n : Nat) (p : Phase) (s : State)

@[simp] theorem requestBytes_arg : (requestBytes n p s).arg = s.arg := rfl
@[simp] theorem requestBytes_status : (requestBytes n p s).status = withSrcWait s.status := rfl
@[simp] theorem requestBytes_resValue : (requestBytes n p s).resValue = s.resValue := rfl
@[simp] theorem requestBytes_resLen : (requestBytes n p s).resLen = s.resLen := rfl
@[simp] theorem requestBytes_frame : (requestBytes n p s).frame = s.frame := rfl
@[simp] theorem requestBytes_phase : (requestBytes n p s).phase = p := rfl
@[simp] theorem requestBytes_op : (requestBytes n p s).op = s.op := rfl
@[simp] theorem requestBytes_opnd : (requestBytes n p s).opnd = s.opnd := rfl
@[simp] theorem requestBytes_ebuf : (requestBytes n p s).ebuf = s.ebuf := rfl
@[simp] theorem requestBytes_t0 : (requestBytes n p s).t0 = s.t0 := rfl
@[simp] theorem requestBytes_dbuf : (requestBytes n p s).dbuf = s.dbuf := rfl
@[simp] theorem requestBytes_nread : (requestBytes n p s).nread = s.nread := rfl
@[simp] theorem requestBytes_f : (requestBytes n p s).f = s.f := rfl
@[simp] theorem requestBytes_k : (requestBytes n p s).k = s.k := rfl
@[simp] theorem requestBytes_frameT : (requestBytes n p s).frameT = s.frameT := rfl
@[simp] theorem requestBytes_reqN : (requestBytes n p s).reqN = n := rfl
@[simp] theorem requestBytes_resp : (requestBytes n p s).resp = .none := rfl
@[simp] theorem requestBytes_source : (requestBytes n p s).source = s.source := rfl
@[simp] theorem requestBytes_hostProgram : (requestBytes n p s).hostProgram = s.hostProgram := rfl
@[simp] theorem requestBytes_hostReads : (requestBytes n p s).hostReads = s.hostReads := rfl
@[simp] theorem requestBytes_schedule : (requestBytes n p s).schedule = s.schedule := rfl
@[simp] theorem requestBytes_freeDraws : (requestBytes n p s).freeDraws = s.freeDraws := rfl
@[simp] theorem requestBytes_hpv : (requestBytes n p s).hpv = s.hpv := rfl
@[simp] theorem requestBytes_violation : (requestBytes n p s).violation = s.violation := rfl

end RequestBytes

section RecordRead
variable (o : Fin 64) (w : Nat) (d : Value) (s : State)

@[simp] theorem recordRead_arg : (recordRead o w d s).arg = s.arg := rfl
@[simp] theorem recordRead_status : (recordRead o w d s).status = s.status := rfl
@[simp] theorem recordRead_resValue : (recordRead o w d s).resValue = s.resValue := rfl
@[simp] theorem recordRead_resLen : (recordRead o w d s).resLen = s.resLen := rfl
@[simp] theorem recordRead_frame : (recordRead o w d s).frame = s.frame := rfl
@[simp] theorem recordRead_phase : (recordRead o w d s).phase = s.phase := rfl
@[simp] theorem recordRead_op : (recordRead o w d s).op = s.op := rfl
@[simp] theorem recordRead_opnd : (recordRead o w d s).opnd = s.opnd := rfl
@[simp] theorem recordRead_ebuf : (recordRead o w d s).ebuf = s.ebuf := rfl
@[simp] theorem recordRead_t0 : (recordRead o w d s).t0 = s.t0 := rfl
@[simp] theorem recordRead_dbuf : (recordRead o w d s).dbuf = s.dbuf := rfl
@[simp] theorem recordRead_nread : (recordRead o w d s).nread = s.nread := rfl
@[simp] theorem recordRead_f : (recordRead o w d s).f = s.f := rfl
@[simp] theorem recordRead_k : (recordRead o w d s).k = s.k := rfl
@[simp] theorem recordRead_frameT : (recordRead o w d s).frameT = s.frameT := rfl
@[simp] theorem recordRead_reqN : (recordRead o w d s).reqN = s.reqN := rfl
@[simp] theorem recordRead_resp : (recordRead o w d s).resp = s.resp := rfl
@[simp] theorem recordRead_source : (recordRead o w d s).source = s.source := rfl
@[simp] theorem recordRead_hostProgram : (recordRead o w d s).hostProgram = s.hostProgram := rfl
@[simp] theorem recordRead_hostReads : (recordRead o w d s).hostReads = ⟨o, w, d⟩ :: s.hostReads := rfl
@[simp] theorem recordRead_schedule : (recordRead o w d s).schedule = s.schedule := rfl
@[simp] theorem recordRead_freeDraws : (recordRead o w d s).freeDraws = s.freeDraws := rfl
@[simp] theorem recordRead_hpv : (recordRead o w d s).hpv = s.hpv := rfl
@[simp] theorem recordRead_violation : (recordRead o w d s).violation = s.violation := rfl

end RecordRead

section ResetEvent
variable (s : State)

@[simp] theorem resetEvent_arg : (resetEvent s).arg = none := rfl
@[simp] theorem resetEvent_status : (resetEvent s).status = 0#32 := rfl
@[simp] theorem resetEvent_resValue : (resetEvent s).resValue = 0#64 := rfl
@[simp] theorem resetEvent_resLen : (resetEvent s).resLen = 0#8 := rfl
@[simp] theorem resetEvent_frame : (resetEvent s).frame = Vector.replicate 10 0#8 := rfl
@[simp] theorem resetEvent_phase : (resetEvent s).phase = .idle := rfl
@[simp] theorem resetEvent_op : (resetEvent s).op = none := rfl
@[simp] theorem resetEvent_opnd : (resetEvent s).opnd = none := rfl
@[simp] theorem resetEvent_ebuf : (resetEvent s).ebuf = Vector.replicate 10 0#8 := rfl
@[simp] theorem resetEvent_t0 : (resetEvent s).t0 = 0 := rfl
@[simp] theorem resetEvent_dbuf : (resetEvent s).dbuf = Vector.replicate 10 0#8 := rfl
@[simp] theorem resetEvent_nread : (resetEvent s).nread = 0 := rfl
@[simp] theorem resetEvent_f : (resetEvent s).f = 0 := rfl
@[simp] theorem resetEvent_k : (resetEvent s).k = 0 := rfl
@[simp] theorem resetEvent_frameT : (resetEvent s).frameT = 0 := rfl
@[simp] theorem resetEvent_reqN : (resetEvent s).reqN = 0 := rfl
@[simp] theorem resetEvent_resp : (resetEvent s).resp = .none := rfl
@[simp] theorem resetEvent_source : (resetEvent s).source = sourceAfterReset s := rfl
@[simp] theorem resetEvent_hostProgram : (resetEvent s).hostProgram = s.hostProgram := rfl
@[simp] theorem resetEvent_hostReads : (resetEvent s).hostReads = s.hostReads := rfl
@[simp] theorem resetEvent_schedule : (resetEvent s).schedule = s.schedule := rfl
@[simp] theorem resetEvent_freeDraws : (resetEvent s).freeDraws = if inDecode s then s.freeDraws + 1 else s.freeDraws := rfl
@[simp] theorem resetEvent_hpv : (resetEvent s).hpv = s.hpv := rfl
@[simp] theorem resetEvent_violation : (resetEvent s).violation = s.violation := rfl

end ResetEvent

section MarkViolation
variable (v : Violation) (s : State)

@[simp] theorem markViolation_arg : (markViolation v s).arg = s.arg := rfl
@[simp] theorem markViolation_status : (markViolation v s).status = s.status := rfl
@[simp] theorem markViolation_resValue : (markViolation v s).resValue = s.resValue := rfl
@[simp] theorem markViolation_resLen : (markViolation v s).resLen = s.resLen := rfl
@[simp] theorem markViolation_frame : (markViolation v s).frame = s.frame := rfl
@[simp] theorem markViolation_phase : (markViolation v s).phase = s.phase := rfl
@[simp] theorem markViolation_op : (markViolation v s).op = s.op := rfl
@[simp] theorem markViolation_opnd : (markViolation v s).opnd = s.opnd := rfl
@[simp] theorem markViolation_ebuf : (markViolation v s).ebuf = s.ebuf := rfl
@[simp] theorem markViolation_t0 : (markViolation v s).t0 = s.t0 := rfl
@[simp] theorem markViolation_dbuf : (markViolation v s).dbuf = s.dbuf := rfl
@[simp] theorem markViolation_nread : (markViolation v s).nread = s.nread := rfl
@[simp] theorem markViolation_f : (markViolation v s).f = s.f := rfl
@[simp] theorem markViolation_k : (markViolation v s).k = s.k := rfl
@[simp] theorem markViolation_frameT : (markViolation v s).frameT = s.frameT := rfl
@[simp] theorem markViolation_reqN : (markViolation v s).reqN = s.reqN := rfl
@[simp] theorem markViolation_resp : (markViolation v s).resp = s.resp := rfl
@[simp] theorem markViolation_source : (markViolation v s).source = s.source := rfl
@[simp] theorem markViolation_hostProgram : (markViolation v s).hostProgram = s.hostProgram := rfl
@[simp] theorem markViolation_hostReads : (markViolation v s).hostReads = s.hostReads := rfl
@[simp] theorem markViolation_schedule : (markViolation v s).schedule = s.schedule := rfl
@[simp] theorem markViolation_freeDraws : (markViolation v s).freeDraws = s.freeDraws := rfl
@[simp] theorem markViolation_hpv : (markViolation v s).hpv = true := rfl
@[simp] theorem markViolation_violation : (markViolation v s).violation = some v := rfl

end MarkViolation

section ConnectSource
variable (a : SourceAgent) (s : State)

@[simp] theorem connectSource_arg : (connectSource a s).arg = s.arg := rfl
@[simp] theorem connectSource_status : (connectSource a s).status = s.status := rfl
@[simp] theorem connectSource_resValue : (connectSource a s).resValue = s.resValue := rfl
@[simp] theorem connectSource_resLen : (connectSource a s).resLen = s.resLen := rfl
@[simp] theorem connectSource_frame : (connectSource a s).frame = s.frame := rfl
@[simp] theorem connectSource_phase : (connectSource a s).phase = s.phase := rfl
@[simp] theorem connectSource_op : (connectSource a s).op = s.op := rfl
@[simp] theorem connectSource_opnd : (connectSource a s).opnd = s.opnd := rfl
@[simp] theorem connectSource_ebuf : (connectSource a s).ebuf = s.ebuf := rfl
@[simp] theorem connectSource_t0 : (connectSource a s).t0 = s.t0 := rfl
@[simp] theorem connectSource_dbuf : (connectSource a s).dbuf = s.dbuf := rfl
@[simp] theorem connectSource_nread : (connectSource a s).nread = s.nread := rfl
@[simp] theorem connectSource_f : (connectSource a s).f = s.f := rfl
@[simp] theorem connectSource_k : (connectSource a s).k = s.k := rfl
@[simp] theorem connectSource_frameT : (connectSource a s).frameT = s.frameT := rfl
@[simp] theorem connectSource_reqN : (connectSource a s).reqN = s.reqN := rfl
@[simp] theorem connectSource_resp : (connectSource a s).resp = s.resp := rfl
@[simp] theorem connectSource_source : (connectSource a s).source = some a := rfl
@[simp] theorem connectSource_hostProgram : (connectSource a s).hostProgram = s.hostProgram := rfl
@[simp] theorem connectSource_hostReads : (connectSource a s).hostReads = s.hostReads := rfl
@[simp] theorem connectSource_schedule : (connectSource a s).schedule = s.schedule := rfl
@[simp] theorem connectSource_freeDraws : (connectSource a s).freeDraws = s.freeDraws := rfl
@[simp] theorem connectSource_hpv : (connectSource a s).hpv = s.hpv := rfl
@[simp] theorem connectSource_violation : (connectSource a s).violation = s.violation := rfl

end ConnectSource

end Sys2Proof.Machine
end

