-- ==== Sys2Proof/Laws/Ops.lean ====
section
/-! SUPPORT. What each shared operation can do: one lemma per operation, which proofs cite instead of unfolding it. -/

namespace Sys2Proof.Machine

/-! Status fields. -/

theorem busy_def (s : State) : busy s = s.status.getLsbD 0 := rfl

theorem done_def (s : State) : done s = s.status.getLsbD 1 := rfl

theorem error_def (s : State) : error s = s.status.getLsbD 2 := rfl

theorem srcWait_def (s : State) : srcWait s = s.status.getLsbD 3 := rfl

@[simp] theorem getLsbD_withSrcWait_three (w : Word32) : (withSrcWait w).getLsbD 3 = true := by
  simp [withSrcWait]

@[simp] theorem getLsbD_withoutSrcWait_three (w : Word32) : (withoutSrcWait w).getLsbD 3 = false := by
  simp [withoutSrcWait]

/-- The answer to an outstanding request restores the STATUS of the acceptance (10_state R36). -/
@[simp] theorem withoutSrcWait_withSrcWait_accepted : withoutSrcWait (withSrcWait statusAccepted) = statusAccepted := rfl

@[simp] theorem getLsbD_statusAccepted_three : statusAccepted.getLsbD 3 = false := rfl

/-- STATUS of an error is 0x06 + 16 * code (60_exceptions R203). -/
theorem toNat_statusError (e : ArchError) : (statusError e).toNat = 0x06 + (codeOf e).toNat * 16 := by cases e <;> rfl

/-- Every architected error has a code from 1 to 8 (60_exceptions R201). -/
theorem codeOf_range (e : ArchError) : 1 ≤ (codeOf e).toNat ∧ (codeOf e).toNat ≤ 8 := by cases e <;> decide

/-! Acceptance and the one-step operations. -/

/-- An accepted CMD write: BUSY was 0, a command that reads ARG found it written, and the command is latched (60_exceptions R200, R212). -/
theorem acceptCommand_ok {c : Byte} {s t : State} (h : acceptCommand c s = .ok t) :
    busy s = false ∧ (readsArg (decodeOpcode c) = true → s.arg.isSome = true) ∧ t = latchCommand c s.arg s := by
  unfold acceptCommand at h
  split at h
  · cases h
  · split at h
    · cases h
    · rename_i hb ha
      cases h
      refine ⟨by simpa using hb, fun hr => ?_, rfl⟩
      cases hs : s.arg <;> simp_all

/-- A one-step operation that answers a next state ran in EXEC, or it was not its step and nothing changed (60_exceptions R209). -/
theorem oneStep_next {operation : State → State} {s t : State} (h : oneStep operation s = .next t) :
    (s.phase = .exec ∧ t = operation s) ∨ (s.phase ≠ .exec ∧ t = s) := by
  unfold oneStep at h
  split at h <;> cases h
  · exact .inl ⟨‹_›, rfl⟩
  · exact .inr ⟨‹_›, rfl⟩

/-- An operation over the operand: the operation, or the mark where none is latched (60_exceptions R211). -/
theorem withOperand_cases (operation : Value → State → State) (s : State) :
    (∃ v, s.opnd = some v ∧ withOperand operation s = operation v s) ∨
      (s.opnd = none ∧ withOperand operation s = markViolation .argHoldsNoValue s) := by
  unfold withOperand
  cases h : s.opnd with
  | some v => exact .inl ⟨v, rfl, rfl⟩
  | none => exact .inr ⟨rfl, rfl⟩

/-- MFB completes, with a length or with VALUE_OUT_OF_RANGE (40_bitframemath R106). -/
theorem minFrameBytesOp_cases (n : Value) (s : State) :
    minFrameBytesOp n s = raiseError .valueOutOfRange s ∨
      minFrameBytesOp n s = complete (BitVec.ofNat 64 (minimalFrameBytes n.toNat))
        (BitVec.ofNat 8 (minimalFrameBytes n.toNat)) (tenBytes []) s ∧ n.toNat ≤ 64 := by
  unfold minFrameBytesOp
  split
  · exact .inl rfl
  · rename_i hn
    exact .inr ⟨rfl, Nat.not_lt.mp hn⟩

/-- PCB completes, with a capacity or with VALUE_OUT_OF_RANGE (40_bitframemath R107). -/
theorem payloadCapacityOp_cases (n : Value) (s : State) :
    payloadCapacityOp n s = raiseError .valueOutOfRange s ∨
      payloadCapacityOp n s = complete (BitVec.ofNat 64 (payloadCapacityBits n.toNat)) 0#8 (tenBytes []) s := by
  unfold payloadCapacityOp
  split
  · exact .inl rfl
  · exact .inr rfl

/-! The ByteSource port. -/

/-- A DATA answer: the next n bytes, consumed (42_bytesource R142, R146). -/
theorem dataAnswer_some {n : Nat} {a b : SourceAgent} {r : Response} (h : dataAnswer n a = some (r, b)) :
    a.ended = false ∧ a.pos + n ≤ a.bytes.length ∧ r = .data ((a.bytes.drop a.pos).take n) ∧
      b = { a with pos := a.pos + n } := by
  unfold dataAnswer at h
  split at h
  · cases h
    rename_i hc
    exact ⟨hc.1, hc.2, rfl, rfl⟩
  · cases h

/-- Every answer is whole DATA, or END, or, from a free agent that has not answered END, ERR (42_bytesource R142, R146, R150). -/
theorem sourceAnswer_some {c : SourceChoice} {n : Nat} {a b : SourceAgent} {r : Response}
    (h : sourceAnswer c n a = some (r, b)) :
    dataAnswer n a = some (r, b) ∨ (r = .endOfInput ∧ ∃ p, b = { a with pos := p, ended := true }) ∨
      (a.kind = .free ∧ a.ended = false ∧ r = .sourceError ∧ ∃ p, b = { a with pos := p }) := by
  unfold sourceAnswer at h
  split at h
  · cases hd : dataAnswer n a with
    | none => simp [overAnswer, hd] at h; exact .inr (.inl ⟨h.1.symm, _, h.2.symm⟩)
    | some q => left; simpa [overAnswer, hd] using h
  · rename_i hk
    cases c with
    | data => exact .inl h
    | endOfInput k => simp [freeAnswer] at h; exact .inr (.inl ⟨h.1.symm, _, h.2.symm⟩)
    | sourceError k =>
      simp only [freeAnswer] at h
      split at h
      · cases h
      · rename_i he
        simp at h
        exact .inr (.inr ⟨hk, by simpa using he, h.1.symm, _, h.2.symm⟩)

/-- The answer step: nothing, or the agent's answer to the outstanding request (42_bytesource R144). -/
theorem answerRequest_cases (c : SourceChoice) (s : State) :
    answerRequest c s = s ∨
      ∃ a r b, srcWait s = true ∧ s.source = some a ∧ sourceAnswer c s.reqN a = some (r, b) ∧
        answerRequest c s = { s with resp := r, status := withoutSrcWait s.status, source := some b } := by
  unfold answerRequest
  split
  · cases hs : s.source with
    | none => exact .inl rfl
    | some a =>
      cases ha : sourceAnswer c s.reqN a with
      | none => left; simp [ha]
      | some p => right; exact ⟨a, p.1, p.2, ‹_›, rfl, ha, by simp [ha]⟩
  · exact .inl rfl

/-- The take step: nothing, an error, or the bytes of the response, of exactly the size asked for (42_bytesource R145). -/
theorem takeResponse_cases (n : Nat) (e : ArchError) (g : List Byte → State → State) (s : State) :
    takeResponse n e g s = s ∨
      (srcWait s = false ∧
        ((s.resp = .endOfInput ∧ takeResponse n e g s = raiseError e { s with resp := .none }) ∨
          (s.resp = .sourceError ∧ takeResponse n e g s = raiseError .sourceError { s with resp := .none }) ∨
          ∃ bytes, s.resp = .data bytes ∧ bytes.length = n ∧ takeResponse n e g s = g bytes { s with resp := .none })) := by
  unfold takeResponse
  split
  · exact .inl rfl
  · rename_i hw
    have hw : srcWait s = false := by simpa using hw
    split
    · exact .inl rfl
    · exact .inr ⟨hw, .inl ⟨‹_›, rfl⟩⟩
    · exact .inr ⟨hw, .inr (.inl ⟨‹_›, rfl⟩)⟩
    · split
      · exact .inr ⟨hw, .inr (.inr ⟨_, ‹_›, ‹_›, rfl⟩)⟩
      · exact .inl rfl

/-! The decoder. -/

/-- The staging state of the terminating byte: k and T (43_decoder R160). -/
abbrev terminated (b : Byte) (s : State) : State := { s with k := clo8 b, frameT := 8 * s.f + clo8 b }

/-- From the terminating byte: one of the three errors, the tail request, or the end (43_decoder R160, R166 to R171). -/
theorem onTerminatingByte_cases (b : Byte) (s : State) :
    (8 * s.f + clo8 b = 0 ∧ onTerminatingByte b s = raiseError .malformedZeroRun (terminated b s)) ∨
    (10 < 8 * s.f + clo8 b ∧ onTerminatingByte b s = raiseError .malformedOverlong (terminated b s)) ∨
    (8 * s.f + clo8 b = 10 ∧ headBits b (clo8 b) ≠ 0x00#8 ∧
      onTerminatingByte b s = raiseError .malformedOverflow (terminated b s)) ∨
    (1 ≤ 8 * s.f + clo8 b ∧ 8 * s.f + clo8 b ≤ 10 ∧ (8 * s.f + clo8 b = 10 → headBits b (clo8 b) = 0x00#8) ∧
      ((s.nread < 8 * s.f + clo8 b ∧
          onTerminatingByte b s = requestBytes (8 * s.f + clo8 b - s.nread) .decTail (terminated b s)) ∨
        (8 * s.f + clo8 b ≤ s.nread ∧ onTerminatingByte b s = completeDecode s.nread (terminated b s)))) := by
  simp only [onTerminatingByte, Config.maxT]
  split
  · exact .inl ⟨‹_›, rfl⟩
  · split
    · exact .inr (.inl ⟨‹_›, rfl⟩)
    · split
      · rename_i h; exact .inr (.inr (.inl ⟨h.1, h.2, rfl⟩))
      · rename_i h0 h1 h2
        refine .inr (.inr (.inr ⟨by omega, by omega, fun h => by by_contra hc; exact h2 ⟨h, hc⟩, ?_⟩))
        split
        · exact .inl ⟨by omega, rfl⟩
        · exact .inr ⟨by omega, rfl⟩

/-- The step of a DECODE by its phase (43_decoder R161). -/
theorem decodeStep_cases (s : State) :
    (inDecode s = false ∧ decodeStep s = s) ∨ (s.phase = .decStart ∧ decodeStep s = startDecode s) ∨
    (s.phase = .decB0 ∧
      decodeStep s = takeResponse 1 .endOfInput (fun bytes => onByte0 (byteOrZero bytes 0)) s) ∨
    (s.phase = .decB1 ∧
      decodeStep s = takeResponse 1 .truncatedFrame (fun bytes => onByte1 (byteOrZero bytes 0)) s) ∨
    (s.phase = .decTail ∧ decodeStep s = takeResponse s.reqN .truncatedFrame onTail s) := by
  unfold decodeStep inDecode
  cases h : s.phase <;> simp

/-! The host and the turns. -/

/-- A bus access that is no violation: a read recorded for the host, an ARG write, or an accepted CMD write (20_memory R53, R58). -/
theorem busAccess_ok {a : Access} {s t : State} (h : busAccess a s = .ok t) :
    (∃ o w d, t = recordRead o w d s) ∨ (busy s = false ∧ ∃ d, t = { s with arg := some d }) ∨
      ∃ c, acceptCommand c s = .ok t := by
  cases a with
  | read o w =>
    simp only [busAccess] at h
    split at h
    · cases h
    · rename_i r _
      cases hr : hostRead r s with
      | error e => simp [hr, Except.map] at h
      | ok v => simp only [hr, Except.map, Except.ok.injEq] at h; exact .inl ⟨o, w, v, h.symm⟩
  | write o w d =>
    simp only [busAccess] at h
    split at h
    · cases h
    · rename_i r _
      cases r <;> simp only [hostWrite] at h
      case cmd => exact .inr (.inr ⟨_, h⟩)
      case arg =>
        split at h
        · cases h
        · rename_i hb
          cases h
          exact .inr (.inl ⟨Bool.not_eq_true _ ▸ hb, d, rfl⟩)
      all_goals cases h

/-- A bus access: its effect, or the mark of the violation it is (60_exceptions R210). -/
theorem accessOrMark_cases (a : Access) (s : State) :
    busAccess a s = .ok (accessOrMark a s) ∨ ∃ v, accessOrMark a s = markViolation v s := by
  unfold accessOrMark
  cases h : busAccess a s with
  | ok t => exact .inl rfl
  | error v => exact .inr ⟨v, rfl⟩

/-- What a host's turn can do (30_encoding R84). -/
theorem hostTurn_cases (s : State) :
    hostTurn s = s ∨
      (∃ a rest, s.hostProgram = .access a :: rest ∧ hostTurn s = accessOrMark a { s with hostProgram := rest }) ∨
      (∃ rest, s.hostProgram = .wait :: rest ∧ hostTurn s = waitStatus rest s) ∨
      (∃ rest, s.hostProgram = .reset :: rest ∧ hostTurn s = resetEvent { s with hostProgram := rest }) ∨
      ∃ bytes rest, s.hostProgram = .src bytes :: rest ∧
        hostTurn s = connectSource ⟨bytes, 0, false, .over⟩ { s with hostProgram := rest } := by
  unfold hostTurn
  split
  · exact .inl rfl
  · exact .inr (.inl ⟨_, _, ‹_›, rfl⟩)
  · exact .inr (.inr (.inl ⟨_, ‹_›, rfl⟩))
  · exact .inr (.inr (.inr (.inl ⟨_, ‹_›, rfl⟩)))
  · exact .inr (.inr (.inr (.inr ⟨_, _, ‹_›, rfl⟩)))

/-- The block's turn: the next step of the latched command, or nothing (60_exceptions R209). -/
theorem blockTurn_cases (s : State) :
    (∃ c, s.phase ≠ .idle ∧ s.op = some c ∧ blockTurn s = exec (decodeOpcode c) s) ∨
      (blockTurn s = .next s ∧ (s.phase = .idle ∨ s.op = none)) := by
  unfold blockTurn currentCommand
  by_cases hp : s.phase = .idle
  · simp [hp]
  · cases ho : s.op with
    | none => simp [hp]
    | some c => left; exact ⟨c, hp, rfl, by simp [hp]⟩

/-- A step is one agent's turn, at the state less the turn it used up, and hpv is not set (log 2, 60_exceptions R210). -/
theorem step_next {s t : State} (h : step s = .next t) :
    s.hpv = false ∧ ∃ turn rest, takeTurn turn { s with schedule := rest } = .next t := by
  unfold step nextTurn at h
  split at h
  · cases h
  · rename_i hm
    refine ⟨Bool.not_eq_true _ ▸ hm, ?_⟩
    split at h
    · exact ⟨_, _, h⟩
    · rename_i hs
      exact ⟨eagerTurn s, s.schedule, h⟩

end Sys2Proof.Machine
end

