-- ==== Sys2Proof/Laws/Exec.lean ====
section
/-! SUPPORT. What exec answers, for any command, and what the phase by phase invariant says of a waiting DECODE. -/

namespace Sys2Proof.Machine

/-- What the consistency of a tail state says. -/
theorem tailConsistent_spec {s : State} (h : tailConsistent s = true) :
    s.f ≤ 1 ∧ s.k ≤ 7 ∧ s.k = clo8 (byteAt s.dbuf s.f) ∧ s.frameT = 8 * s.f + s.k ∧ 2 ≤ s.frameT ∧ s.frameT ≤ 10 ∧
    s.nread = s.f + 1 ∧ s.reqN + s.nread = s.frameT ∧ 1 ≤ s.reqN ∧ s.reqN ≤ 8 ∧
    (s.frameT = 10 → headBits (byteAt s.dbuf s.f) s.k = 0x00#8) := by
  simp only [tailConsistent, Bool.and_eq_true, decide_eq_true_eq, Config.maxT, Config.maxSrcReq] at h
  obtain ⟨⟨⟨a, b, c, d, e, f⟩, g, i, j, k⟩, l⟩ := h
  exact ⟨a, b, c, d, e, f, g, i, j, k, l⟩

/-- An answered request has restored the STATUS of the acceptance (10_state R36). -/
theorem status_of_answered (s : State) (h : portConsistent s = true) (hw : srcWait s = false) : s.status = statusAccepted := by
  unfold portConsistent at h
  split at h
  · simp at h; rw [srcWait, h] at hw; exact absurd hw (by decide)
  all_goals simp_all

/-- An error leaves a STATUS of the table (60_exceptions R203). -/
theorem idleStatus_statusError (e : ArchError) : idleStatus (statusError e) = true := by cases e <;> decide

/-- A success leaves a STATUS of the table (60_exceptions R202). -/
theorem idleStatus_statusDone : idleStatus statusDone = true := by decide

/-- What the checks of the terminating byte change: the results and STATUS only in a completion. -/
theorem onTerminatingByte_frame (b : Byte) (s : State) :
    let t := onTerminatingByte b s
    keepsOutside s t ∧ keepsEncoder s t ∧
    ((t.phase = .decTail ∧ keepsResults s t ∧ t.status = withSrcWait s.status) ∨
     (t.phase = .idle ∧ ((∃ e, t.status = statusError e ∧ t.resValue = 0#64 ∧ t.resLen = 0#8 ∧ t.frame = Vector.replicate 10 0#8) ∨ t.status = statusDone))) := by
  rcases onTerminatingByte_cases b s with ⟨_, h⟩ | ⟨_, h⟩ | ⟨_, _, h⟩ | ⟨_, _, _, ⟨_, h⟩ | ⟨_, h⟩⟩ <;>
    simp [h, terminated, completeDecode, keepsOutside, keepsEncoder, keepsResults]

/-- What a step of a DECODE changes: nothing, or a request, or a completion (43_decoder R161). -/
theorem decodeStep_frame (s : State) :
    let t := decodeStep s
    keepsOutside s t ∧ keepsEncoder s t ∧
    (t = s ∨ (inDecode s = true ∧ inDecode t = true ∧ keepsResults s t ∧ t.status = withSrcWait s.status) ∨
     (inDecode s = true ∧ t.phase = .idle ∧ ((∃ e, t.status = statusError e ∧ t.resValue = 0#64 ∧ t.resLen = 0#8 ∧ t.frame = Vector.replicate 10 0#8) ∨ t.status = statusDone))) := by
  rcases decodeStep_cases s with ⟨_, h⟩ | ⟨hp, h⟩ | ⟨hp, h⟩ | ⟨hp, h⟩ | ⟨hp, h⟩
  · simp [h, keepsOutside, keepsEncoder, keepsResults]
  · simp [h, startDecode, inDecode, hp, keepsOutside, keepsEncoder, keepsResults]
  all_goals
    simp only [h]
    have hi : inDecode s = true := by simp [inDecode, hp]
    rcases takeResponse_cases _ _ _ s with h2 | ⟨_, ⟨_, h2⟩ | ⟨_, h2⟩ | ⟨bs, _, _, h2⟩⟩
    · rw [h2]; simp [keepsOutside, keepsEncoder, keepsResults]
    · rw [h2]; simp [hi, keepsOutside, keepsEncoder, keepsResults]
    · rw [h2]; simp [hi, keepsOutside, keepsEncoder, keepsResults]
  · rw [h2]
    simp only [onByte0]
    split
    · have hi' := hi
      simp only [inDecode] at hi'
      simp [inDecode, hi', keepsOutside, keepsEncoder, keepsResults]
    · have := onTerminatingByte_frame (byteOrZero bs 0) { s with resp := .none, dbuf := storeBytes [byteOrZero bs 0] 0 s.dbuf, nread := 1 }
      simp only at this
      obtain ⟨h1, h2, h3⟩ := this
      refine ⟨h1, h2, ?_⟩
      rcases h3 with ⟨a, b, c⟩ | ⟨a, b⟩
      · exact .inr (.inl ⟨hi, by simp [inDecode, a], b, c⟩)
      · exact .inr (.inr ⟨hi, a, b⟩)
  · rw [h2]
    simp only [onByte1]
    split
    · simp [hi, keepsOutside, keepsEncoder, keepsResults]
    · have := onTerminatingByte_frame (byteOrZero bs 0) { s with resp := .none, dbuf := storeBytes [byteOrZero bs 0] 1 s.dbuf, nread := 2 }
      simp only at this
      obtain ⟨h1, h2, h3⟩ := this
      refine ⟨h1, h2, ?_⟩
      rcases h3 with ⟨a, b, c⟩ | ⟨a, b⟩
      · exact .inr (.inl ⟨hi, by simp [inDecode, a], b, c⟩)
      · exact .inr (.inr ⟨hi, a, b⟩)
  · rw [h2]; simp [onTail, completeDecode, hi, keepsOutside, keepsEncoder, keepsResults]

/-- What a one-step operation over the operand answers: nothing outside EXEC, the mark, or the operation (60_exceptions R209, R211). -/
theorem oneStep_withOperand {operation : Value → State → State} {s t : State}
    (h : oneStep (withOperand operation) s = .next t) :
    (s.phase ≠ .exec ∧ t = s) ∨ (s.phase = .exec ∧ s.opnd = none ∧ t = markViolation .argHoldsNoValue s) ∨
      ∃ v, s.phase = .exec ∧ s.opnd = some v ∧ t = operation v s := by
  rcases oneStep_next h with ⟨hp, rfl⟩ | ⟨hp, rfl⟩
  · rcases withOperand_cases operation s with ⟨v, ho, he⟩ | ⟨ho, he⟩
    · exact .inr (.inr ⟨v, hp, ho, he⟩)
    · exact .inr (.inl ⟨hp, ho, he⟩)
  · exact .inl ⟨hp, rfl⟩

/-- What `exec` answers: a step of a DECODE, nothing outside EXEC, the mark of a missing operand, an error, or a result
(60_exceptions R202, R203, R209, R211). -/
theorem exec_next (i : Instr) (s t : State) (h : exec i s = .next t) :
    (i = .dec ∧ t = decodeStep s) ∨ (i ≠ .dec ∧ s.phase ≠ .exec ∧ t = s) ∨
    (i ≠ .dec ∧ s.phase = .exec ∧
      ((readsArg i = true ∧ s.opnd = none ∧ t = markViolation .argHoldsNoValue s) ∨ (∃ e, t = raiseError e s) ∨
        (∃ v l, i ≠ .enc ∧ l.toNat ≤ 10 ∧ t = complete v l (tenBytes []) s) ∨ ∃ v, i = .enc ∧ t = encodeOp v s)) := by
  cases i with
  | dec => simp only [exec, execDec, Host.Outcome.next.injEq] at h; exact .inl ⟨rfl, h.symm⟩
  | enc =>
    rcases oneStep_withOperand h with ⟨hp, h⟩ | ⟨hp, ho, h⟩ | ⟨v, hp, _, h⟩
    · exact .inr (.inl ⟨by simp, hp, h⟩)
    · exact .inr (.inr ⟨by simp, hp, .inl ⟨rfl, ho, h⟩⟩)
    · exact .inr (.inr ⟨by simp, hp, .inr (.inr (.inr ⟨v, rfl, h⟩))⟩)
  | mfb =>
    rcases oneStep_withOperand h with ⟨hp, h⟩ | ⟨hp, ho, h⟩ | ⟨v, hp, _, rfl⟩
    · exact .inr (.inl ⟨by simp, hp, h⟩)
    · exact .inr (.inr ⟨by simp, hp, .inl ⟨rfl, ho, h⟩⟩)
    · rcases minFrameBytesOp_cases v s with h2 | ⟨h2, hle⟩
      · exact .inr (.inr ⟨by simp, hp, .inr (.inl ⟨_, h2⟩)⟩)
      · exact .inr (.inr ⟨by simp, hp, .inr (.inr (.inl ⟨_, _, by simp, by simp [minimalFrameBytes]; omega, h2⟩))⟩)
  | pcb =>
    rcases oneStep_withOperand h with ⟨hp, h⟩ | ⟨hp, ho, h⟩ | ⟨v, hp, _, rfl⟩
    · exact .inr (.inl ⟨by simp, hp, h⟩)
    · exact .inr (.inr ⟨by simp, hp, .inl ⟨rfl, ho, h⟩⟩)
    · rcases payloadCapacityOp_cases v s with h2 | h2
      · exact .inr (.inr ⟨by simp, hp, .inr (.inl ⟨_, h2⟩)⟩)
      · exact .inr (.inr ⟨by simp, hp, .inr (.inr (.inl ⟨_, _, by simp, by simp, h2⟩))⟩)
  | reserved c =>
    rcases oneStep_next h with ⟨hp, h⟩ | ⟨hp, h⟩
    · exact .inr (.inr ⟨by simp, hp, .inr (.inl ⟨_, h⟩)⟩)
    · exact .inr (.inl ⟨by simp, hp, h⟩)

end Sys2Proof.Machine
end

