-- ==== Sys2Proof/Laws/PerInstr.lean ====
section
/-! SUPPORT. What holds of every command as syntax, one lemma per constructor of Instr. -/

namespace Sys2Proof.Laws.OneByteCommand

/-- A command is one byte (30_encoding R70), and the commands that read ARG are those of opcodes 0x01, 0x03 and 0x04 (R75). -/
def Statement (i : Instr) : Prop :=
  (encode i).length = 1 ∧
    (i.wellFormed = true →
      (Machine.readsArg i = true ↔ opcodeOf i = 0x01#8 ∨ opcodeOf i = 0x03#8 ∨ opcodeOf i = 0x04#8))

theorem enc : Statement .enc := ⟨rfl, fun _ => by decide⟩

theorem dec : Statement .dec := ⟨rfl, fun _ => by decide⟩

theorem mfb : Statement .mfb := ⟨rfl, fun _ => by decide⟩

theorem pcb : Statement .pcb := ⟨rfl, fun _ => by decide⟩

theorem reserved (c : Byte) : Statement (.reserved c) := by
  refine ⟨rfl, fun h => ⟨fun hr => by simp [Machine.readsArg] at hr, fun hc => ?_⟩⟩
  rcases hc with hc | hc | hc <;>
    simp only [opcodeOf] at hc <;> subst hc <;> exact absurd h (by decide)

end Sys2Proof.Laws.OneByteCommand
end

