-- ==== Sys2Proof/Tests/Slice0.lean ====
section
/-! SUPPORT. Our own tests: well-formedness, decoding, at most two single steps of each command with the results of
spec/95_test_vectors.md, and for each obligation with hypotheses a state that meets them, one at each end of a range. -/

namespace Sys2Proof.Tests

open Sys2Proof.Machine

/-! Helpers: small states, and a readable outcome. -/

/-- The state an outcome goes to, if it does. -/
def nextOf : Host.Outcome State Fault Refusal → Option State
  | .next s => some s
  | .fault _ => none
  | .refused _ => none

/-- The fault an outcome stops with, if it does. -/
def faultOf : Host.Outcome State Fault Refusal → Option Fault
  | .next _ => none
  | .fault e => some e
  | .refused _ => none

/-- The mark an outcome's state holds, and the violation that set it. -/
def markOf (o : Host.Outcome State Fault Refusal) : Option (Bool × Option Violation) :=
  (nextOf o).map fun s => (s.hpv, s.violation)

/-- STATUS, RES_VALUE and RES_LEN as numbers after an outcome. -/
def resultOf (o : Host.Outcome State Fault Refusal) : Option (Nat × Nat × Nat) :=
  (nextOf o).map fun s => (s.status.toNat, s.resValue.toNat, s.resLen.toNat)

/-- FRAME after an outcome. -/
def frameOf (o : Host.Outcome State Fault Refusal) : Option (List Byte) := (nextOf o).map fun s => s.frame.toList

/-- A command accepted with operand v. -/
def accepted (c : Byte) (v : Value) : State :=
  { State.reset with arg := some v, op := some c, opnd := some v, status := 0x00000001#32, phase := .exec }

/-- A DEC accepted, over a stream from position p. -/
def decoding (bytes : List Byte) (p : Nat) : State :=
  { State.reset with op := some 0x02#8, status := 0x00000001#32, phase := .decStart, source := some ⟨bytes, p, false, .over⟩ }

/-- A DEC whose request for frame byte 0 has this response. -/
def atByte0 (r : Response) : State := { decoding [] 0 with phase := .decB0, reqN := 1, resp := r }

/-- A DEC whose request for frame byte 1 has this response. -/
def atByte1 (r : Response) : State :=
  { decoding [] 0 with
    phase := .decB1, reqN := 1, resp := r, f := 1, nread := 1, dbuf := storeBytes [0xFF#8] 0 (Vector.replicate 10 0#8) }

/-- A DEC of a frame of length t whose head bytes (one or two) are read and whose tail request has this response. -/
def atTail (head : List Byte) (t : Nat) (r : Response) : State :=
  { decoding [] 0 with
    phase := .decTail, reqN := t - head.length, resp := r, f := head.length - 1, nread := head.length
    k := t - 8 * (head.length - 1), frameT := t, dbuf := storeBytes head 0 (Vector.replicate 10 0#8) }

/-- The request is outstanding. -/
def waiting (s : State) : State := { s with resp := .none, status := 0x00000009#32 }

/-- The host's next statement, at its turn. -/
def hostDoes (a : HostStmt) (s : State) : State := { s with hostProgram := [a], schedule := [.host] }

/-- Results a host can read: 0x3F in one byte, and a frame of ten different bytes. -/
def finished : State :=
  { State.reset with
    status := 0x00000002#32, resValue := 0x3F#64, resLen := 0x01#8, arg := some 7#64
    frame := #v[0xBF#8, 1#8, 2#8, 3#8, 4#8, 5#8, 6#8, 7#8, 8#8, 9#8] }

/-! WellFormed: a reserved command that carries an assigned opcode is refused. -/

theorem test_wellFormed_refuses_enc_opcode : (Instr.reserved 0x01#8).wellFormed = false := by decide

theorem test_wellFormed_refuses_dec_opcode : (Instr.reserved 0x02#8).wellFormed = false := by decide

theorem test_wellFormed_refuses_mfb_opcode : (Instr.reserved 0x03#8).wellFormed = false := by decide

theorem test_wellFormed_refuses_pcb_opcode : (Instr.reserved 0x04#8).wellFormed = false := by decide

theorem test_wellFormed_accepts_reserved :
    (Instr.reserved 0x00#8).wellFormed = true ∧ (Instr.reserved 0x05#8).wellFormed = true ∧
      (Instr.reserved 0xFF#8).wellFormed = true := by decide

/-! Decoding: bits 7:0 of the written byte (30_encoding R70 to R73), written out bit by bit. -/

theorem test_decode_enc : decode [0b00000001#8] = .ok (.enc, []) := rfl

theorem test_decode_dec : decode [0b00000010#8] = .ok (.dec, []) := rfl

theorem test_decode_mfb : decode [0b00000011#8] = .ok (.mfb, []) := rfl

theorem test_decode_pcb : decode [0b00000100#8] = .ok (.pcb, []) := rfl

theorem test_decode_reserved :
    decode [0b00000000#8] = .ok (.reserved 0x00#8, []) ∧ decode [0b00000101#8] = .ok (.reserved 0x05#8, []) ∧
      decode [0b11111111#8] = .ok (.reserved 0xFF#8, []) := ⟨rfl, rfl, rfl⟩

theorem test_decode_nothing : decode [] = .error .noCommandByte := rfl

theorem test_decodeTableWord :
    decodeTableWord 8 0x01 = some .enc ∧ decodeTableWord 8 0x02 = some .dec ∧ decodeTableWord 8 0x03 = some .mfb ∧
      decodeTableWord 8 0x04 = some .pcb ∧ decodeTableWord 8 0x05 = some (.reserved 0x05#8) := by decide

/-! Single steps, one or two of each command (95_test_vectors sections 2 to 6). -/

/-- Section 4: 0x12C is the frame C1 2C. -/
theorem test_enc_two_bytes :
    resultOf (step (accepted 0x01#8 0x12C#64)) = some (0x02, 0, 2) ∧
      frameOf (step (accepted 0x01#8 0x12C#64)) = some [0xC1#8, 0x2C#8, 0#8, 0#8, 0#8, 0#8, 0#8, 0#8, 0#8, 0#8] := by
  decide

/-- Section 4: 2^64 - 1 is the frame FF C0 and eight FF. -/
theorem test_enc_ten_bytes :
    resultOf (step (accepted 0x01#8 0xFFFFFFFFFFFFFFFF#64)) = some (0x02, 0, 10) ∧
      frameOf (step (accepted 0x01#8 0xFFFFFFFFFFFFFFFF#64)) =
        some [0xFF#8, 0xC0#8, 0xFF#8, 0xFF#8, 0xFF#8, 0xFF#8, 0xFF#8, 0xFF#8, 0xFF#8, 0xFF#8] := by
  decide

/-- Section 5, row "FF C1 ...": MALFORMED_OVERFLOW. -/
theorem test_dec_overflow : resultOf (step (atByte1 (.data [0xC1#8]))) = some (0x76, 0, 0) := by decide

/-- Section 4, row 0xDEADBEEF: F8 and the tail DE AD BE EF, T = 5. -/
theorem test_dec_tail :
    resultOf (step (atTail [0xF8#8] 5 (.data [0xDE#8, 0xAD#8, 0xBE#8, 0xEF#8]))) = some (0x02, 0xDEADBEEF, 5) := by
  decide

/-- Section 2: MFB 64 is 10. -/
theorem test_mfb_largest : resultOf (step (accepted 0x03#8 64#64)) = some (0x02, 10, 10) := by decide

/-- Section 2: MFB 65 is out of range. -/
theorem test_mfb_out_of_range : resultOf (step (accepted 0x03#8 65#64)) = some (0x16, 0, 0) := by decide

/-- Section 2: PCB 10 is 69. -/
theorem test_pcb_largest : resultOf (step (accepted 0x04#8 10#64)) = some (0x02, 69, 0) := by decide

/-- Section 2: PCB 0 is out of range. -/
theorem test_pcb_zero : resultOf (step (accepted 0x04#8 0#64)) = some (0x16, 0, 0) := by decide

/-- Section 6: a reserved opcode is ILLEGAL_COMMAND. -/
theorem test_reserved : resultOf (step (accepted 0x05#8 1#64)) = some (0x86, 0, 0) := by decide

/-- Section 2: sigBits. -/
theorem test_sigBits :
    sigBits 0#64 = 0 ∧ sigBits 63#64 = 6 ∧ sigBits 64#64 = 7 ∧ sigBits 0x7FFFFFFFFFFFFFFF#64 = 63 ∧
      sigBits 0x8000000000000000#64 = 64 := by decide

/-- Section 2: collision. -/
theorem test_collision :
    collision 1 6 = false ∧ collision 1 7 = true ∧ collision 9 62 = false ∧ collision 9 63 = true ∧
      collision 10 64 = false := by decide

/-- P6: a command before its operand is a violation, and the run is faulted. -/
theorem test_enc_before_operand :
    markOf (step (hostDoes (wrCmd 0x01#8) State.reset)) = some (true, some .argHoldsNoValue) ∧
      ((nextOf (step (hostDoes (wrCmd 0x01#8) State.reset))).bind fun t => faultOf (step t)) =
        some .hpvMarkSet := by decide

/-- 90_conflicts C8 and R150: whatever choice a turn names, ByteSourceOver answers its own way. -/
theorem test_over_has_no_choice :
    sourceAnswer (.sourceError 5) 1 ⟨[0x80#8], 0, false, .over⟩ =
      some (.data [0x80#8], ⟨[0x80#8], 1, false, .over⟩) := by decide

/-- A command word is run by the very next step, right after reset (log 16): ENC of 0 is the frame 80. -/
theorem test_fetch_enc : frameOf (step (State.reset.withFetchWord 8 0x01)) =
    some [0x80#8, 0#8, 0#8, 0#8, 0#8, 0#8, 0#8, 0#8, 0#8, 0#8] := by decide

/-- The pseudo-instruction DEC writes no ARG (30_encoding R85). -/
theorem test_pseudo_dec : pseudoInstr .dec 5#64 = [wrCmd 0x02#8, .wait] := rfl

/-- The ten reads of FRAME are at 0x28 to 0x31 (20_memory R53). -/
theorem test_rd_frame : rd (.frame 0) = .access (.read 0x28 1) ∧ rd (.frame 9) = .access (.read 0x31 1) := by decide

/-! Witnesses: for each obligation with hypotheses, a state and operands that meet them. -/

theorem witness_OpcodeMapIsWhole :
    (0x00#8 ≠ 0x01#8 ∧ 0x00#8 ≠ 0x02#8 ∧ 0x00#8 ≠ 0x03#8 ∧ 0x00#8 ≠ 0x04#8) ∧
      (0x05#8 ≠ 0x01#8 ∧ 0x05#8 ≠ 0x02#8 ∧ 0x05#8 ≠ 0x03#8 ∧ 0x05#8 ≠ 0x04#8) := by decide

theorem witness_CommandDecodesBackFromItsEncoding :
    Instr.enc.wellFormed = true ∧ Instr.dec.wellFormed = true ∧ Instr.mfb.wellFormed = true ∧
      Instr.pcb.wellFormed = true ∧ (Instr.reserved 0x00#8).wellFormed = true ∧
      (Instr.reserved 0xFF#8).wellFormed = true := by decide

/-- The block's turn by the schedule, and by the empty schedule. -/
theorem witness_StepRunsTheLatchedCommand :
    (let s := { accepted 0x03#8 64#64 with schedule := [.block] }
     s.hpv = false ∧ s.phase ≠ .idle ∧ s.op = some 0x03#8 ∧ s.schedule = [.block]) ∧
    (let s := decoding [] 0
     s.hpv = false ∧ s.phase ≠ .idle ∧ s.op = some 0x02#8 ∧ s.schedule = [] ∧ srcWait s = false) := by decide

theorem witness_StepRunsTheFetchedWord :
    readsArg (decodeOpcode 0x01#8) = true ∧ State.reset.arg.getD 0#64 = 0#64 ∧
      (nextOf (step (State.reset.withFetchWord 8 0x02))).map (·.phase) = some .decB0 := by decide

theorem witness_MarkedStatesTakeNoStep :
    ({ State.reset with hpv := true } : State).hpv = true ∧
      markOf (step (hostDoes (rd .cmd) State.reset)) = some (true, some .wrongDirection) := by decide

theorem witness_SigBitsIsTheLeastBitCount :
    (0x8000000000000000#64 : Value) ≠ 0#64 ∧ (1#64).toNat < 2 ^ 1 ∧ (0xFFFFFFFFFFFFFFFF#64).toNat < 2 ^ 64 := by decide

theorem witness_MinimalFrameBytesIsSmallest :
    (1 ≤ 1 ∧ 0 ≤ 7 * 1 - 1) ∧ (1 ≤ 1 ∧ 6 ≤ 7 * 1 - 1) ∧ (1 ≤ 2 ∧ 7 ≤ 7 * 2 - 1) ∧ (1 ≤ 10 ∧ 64 ≤ 7 * 10 - 1) := by decide

theorem witness_BitFrameMathLawsHold :
    minimalFrameBytes (payloadCapacityBits 1) = 1 ∧ minimalFrameBytes (payloadCapacityBits 10) = 10 ∧
      1 < minimalFrameBytes 7 ∧ 1 < minimalFrameBytes 64 := by decide

/-- MFB with an operand in range, out of range, and with no operand written. -/
theorem witness_MfbComputesMinimalFrameBytes :
    ((accepted 0x03#8 64#64).phase = .exec ∧ (accepted 0x03#8 64#64).opnd = some 64#64 ∧ (64#64).toNat ≤ 64) ∧
    ((accepted 0x03#8 65#64).phase = .exec ∧ (accepted 0x03#8 65#64).opnd = some 65#64 ∧ ¬(65#64).toNat ≤ 64) ∧
    (busy State.reset = false ∧ State.reset.arg = none) := by decide

/-- PCB at both ends of its range and one step outside each, and with no operand written. -/
theorem witness_PcbComputesPayloadCapacity :
    (∀ n : Value, n = 0#64 ∨ n = 1#64 ∨ n = 10#64 ∨ n = 11#64 →
      (accepted 0x04#8 n).phase = .exec ∧ (accepted 0x04#8 n).opnd = some n) ∧
    (busy State.reset = false ∧ State.reset.arg = none) := ⟨fun _ _ => ⟨rfl, rfl⟩, by decide⟩

theorem witness_EncWritesTheFrame :
    (∀ v : Value, (accepted 0x01#8 v).phase = .exec ∧ (accepted 0x01#8 v).opnd = some v) ∧
    (busy State.reset = false ∧ State.reset.arg = none) := ⟨fun _ => ⟨rfl, rfl⟩, by decide⟩

theorem witness_FrameIsRunTerminatorPayload :
    (1 ≤ 1 ∧ 63 < 2 ^ (7 * 1 - 1)) ∧ (1 ≤ 10 ∧ 2 ^ 69 - 1 < 2 ^ (7 * 10 - 1)) := by decide

theorem witness_EncodeIsMinimal :
    (1 ≤ 1 ∧ (0x3F#64).toNat < 2 ^ (7 * 1 - 1)) ∧ (1 ≤ 2 ∧ (0x40#64).toNat < 2 ^ (7 * 2 - 1)) := by decide

/-- Each length, at its least and its greatest value (95_test_vectors section 3). -/
theorem witness_EncodingTableByLength :
    encodeLength 0x0#64 = 1 ∧ encodeLength 0x3F#64 = 1 ∧ encodeLength 0x40#64 = 2 ∧ encodeLength 0x1FFF#64 = 2 ∧
      encodeLength 0x2000#64 = 3 ∧ encodeLength 0x7FFFFFF#64 = 4 ∧ encodeLength 0x8000000#64 = 5 ∧
      encodeLength 0x400000000#64 = 6 ∧ encodeLength 0x1FFFFFFFFFF#64 = 6 ∧ encodeLength 0x20000000000#64 = 7 ∧
      encodeLength 0xFFFFFFFFFFFF#64 = 7 ∧ encodeLength 0x1000000000000#64 = 8 ∧
      encodeLength 0x7FFFFFFFFFFFFF#64 = 8 ∧ encodeLength 0x80000000000000#64 = 9 ∧
      encodeLength 0x3FFFFFFFFFFFFFFF#64 = 9 ∧ encodeLength 0x4000000000000000#64 = 10 ∧
      encodeLength 0xFFFFFFFFFFFFFFFF#64 = 10 := by decide

theorem witness_NoFrameBeginsAnother :
    1 ≤ 10 ∧ 10 ≤ 10 ∧ 5 < 2 ^ (7 * 10 - 1) ∧ frameBytes 10 5 <+: frameBytes 10 5 :=
  ⟨by decide, by decide, by decide, List.prefix_rfl⟩

theorem witness_DecodeStartsWithARequestForOneByte : (decoding [] 0).phase = .decStart := rfl

/-- No request outstanding; no agent; an agent that has the choice, and one that has not. -/
theorem witness_AnswerStepChangesOnlyThePort :
    (let s := { decoding [] 0 with schedule := [.source .data] }
     s.hpv = false ∧ s.schedule = [.source .data] ∧ srcWait s = false) ∧
    (let s := { waiting (atByte0 .none) with schedule := [.source .data], source := none }
     s.hpv = false ∧ s.schedule = [.source .data] ∧ s.source = none) ∧
    (let s := { waiting (atByte0 .none) with schedule := [.source .data] }
     srcWait s = true ∧ s.source = some ⟨[], 0, false, .over⟩ ∧
       (sourceAnswer .data s.reqN ⟨[], 0, false, .over⟩).isSome = true) ∧
    (let s := { waiting (atByte0 .none) with schedule := [.source .data], source := some ⟨[], 0, false, .free⟩ }
     srcWait s = true ∧ s.source = some ⟨[], 0, false, .free⟩ ∧
       sourceAnswer .data s.reqN ⟨[], 0, false, .free⟩ = none) := by decide

theorem witness_AnswersAreNeverShort :
    sourceAnswer .data 1 ⟨[0x80#8], 0, false, .free⟩ = some (.data [0x80#8], ⟨[0x80#8], 1, false, .free⟩) ∧
      sourceAnswer .data 1 ⟨[], 0, true, .over⟩ = some (.endOfInput, ⟨[], 0, true, .over⟩) ∧
      sourceAnswer (.sourceError 3) 1 ⟨[], 0, false, .free⟩ = some (.sourceError, ⟨[], 3, false, .free⟩) := by decide

/-- The last request a free agent can serve with DATA. -/
theorem witness_FreeAgentMayAnswerAnything : false = false ∧ 1 + 1 ≤ [0xC0#8, 0x40#8].length := by decide

/-- The last request the stream can serve, the first it cannot, and the answer after END. -/
theorem witness_ByteSourceOverAnswersInOrder :
    (0 + 2 ≤ [0xC0#8, 0x40#8].length) ∧ ([0xC0#8].length < 0 + 2) ∧
      sourceAnswer .data 2 ⟨[0xC0#8], 0, false, .over⟩ = some (.endOfInput, ⟨[0xC0#8], 1, true, .over⟩) := by decide

/-- No agent; and a free agent that has answered the request for frame byte 0 and answers no more. -/
theorem witness_UnansweredDecodeWaits :
    (let s := { waiting (atByte0 .none) with source := none }
     s.phase = .decB0 ∧ srcWait s = true ∧ s.hpv = false ∧ s.schedule = [] ∧ s.source = none ∧ s.hostProgram = []) ∧
    (let s := { waiting (atByte1 .none) with source := some ⟨[0xFF#8, 0x00#8], 1, false, .free⟩ }
     s.phase = .decB1 ∧ srcWait s = true ∧ s.hpv = false ∧ s.schedule = [] ∧ s.hostProgram = [] ∧
       s.source.all (fun a => a.kind == .free) = true ∧ nextOf (step s) = some s) ∧
    (let s := waiting (atTail [0xC0#8] 2 .none)
     s.phase = .decTail ∧ srcWait s = true) := by decide

/-- Every frame byte 0 can be answered; and its ranges at both ends. -/
theorem witness_DecodeClassifiesFrameByte0 :
    (∀ b : Byte, (atByte0 (.data [b])).phase = .decB0 ∧ srcWait (atByte0 (.data [b])) = false ∧
      (atByte0 (.data [b])).resp = .data [b] ∧ (atByte0 (.data [b])).f = 0) ∧
    resultOf (exec .dec (atByte0 (.data [0x7F#8]))) = some (0x56, 0, 0) ∧
    resultOf (exec .dec (atByte0 (.data [0x80#8]))) = some (0x02, 0, 1) ∧
    resultOf (exec .dec (atByte0 (.data [0xBF#8]))) = some (0x02, 0x3F, 1) ∧
    (0x100 - 2 ^ (8 - 2) ≤ (0xC0#8).toNat ∧ (0xDF#8).toNat < 0x100 - 2 ^ (7 - 2)) ∧
    (0x100 - 2 ^ (8 - 7) ≤ (0xFE#8).toNat ∧ (0xFE#8).toNat < 0x100 - 2 ^ (7 - 7)) ∧
    (nextOf (exec .dec (atByte0 (.data [0xC0#8])))).map (fun t => (t.phase, t.reqN)) = some (.decTail, 1) ∧
    (nextOf (exec .dec (atByte0 (.data [0xFE#8])))).map (fun t => (t.phase, t.reqN)) = some (.decTail, 6) ∧
    (nextOf (exec .dec (atByte0 (.data [0xFF#8])))).map (fun t => (t.phase, t.reqN)) = some (.decB1, 1) :=
  ⟨fun _ => ⟨rfl, by show (0x00000001#32).getLsbD 3 = false; decide, rfl, rfl⟩, by decide⟩

/-- Every frame byte 1 can be answered; and its ranges at both ends. -/
theorem witness_DecodeClassifiesFrameByte1 :
    (∀ b : Byte, (atByte1 (.data [b])).phase = .decB1 ∧ srcWait (atByte1 (.data [b])) = false ∧
      (atByte1 (.data [b])).resp = .data [b] ∧ (atByte1 (.data [b])).f = 1) ∧
    (nextOf (exec .dec (atByte1 (.data [0x00#8])))).map (fun t => (t.reqN, t.frameT)) = some (6, 8) ∧
    (nextOf (exec .dec (atByte1 (.data [0x7F#8])))).map (fun t => (t.reqN, t.frameT)) = some (6, 8) ∧
    (nextOf (exec .dec (atByte1 (.data [0x80#8])))).map (fun t => (t.reqN, t.frameT)) = some (7, 9) ∧
    (nextOf (exec .dec (atByte1 (.data [0xBF#8])))).map (fun t => (t.reqN, t.frameT)) = some (7, 9) ∧
    (nextOf (exec .dec (atByte1 (.data [0xC0#8])))).map (fun t => (t.reqN, t.frameT)) = some (8, 10) ∧
    resultOf (exec .dec (atByte1 (.data [0xC1#8]))) = some (0x76, 0, 0) ∧
    resultOf (exec .dec (atByte1 (.data [0xDF#8]))) = some (0x76, 0, 0) ∧
    resultOf (exec .dec (atByte1 (.data [0xE0#8]))) = some (0x66, 0, 0) ∧
    resultOf (exec .dec (atByte1 (.data [0xFF#8]))) = some (0x66, 0, 0) :=
  ⟨fun _ => ⟨rfl, by show (0x00000001#32).getLsbD 3 = false; decide, rfl, rfl⟩, by decide⟩

/-- A tail of the shortest, a middle and the longest frame. -/
theorem witness_DecodeAssemblesTheValue :
    (let s := atTail [0xC0#8] 2 (.data [0x40#8])
     s.phase = .decTail ∧ srcWait s = false ∧ s.resp = .data [0x40#8] ∧ [0x40#8].length = s.reqN ∧
       tailConsistent s = true) ∧
    (let s := atTail [0xFF#8, 0x7F#8] 8 (.data (List.replicate 6 0xFF#8))
     s.phase = .decTail ∧ srcWait s = false ∧ s.resp = .data (List.replicate 6 0xFF#8) ∧
       (List.replicate 6 0xFF#8).length = s.reqN ∧ tailConsistent s = true) ∧
    (let s := atTail [0xFF#8, 0xC0#8] 10 (.data (List.replicate 8 0xFF#8))
     s.phase = .decTail ∧ srcWait s = false ∧ s.resp = .data (List.replicate 8 0xFF#8) ∧
       (List.replicate 8 0xFF#8).length = s.reqN ∧ tailConsistent s = true) := by decide

theorem witness_DecodeReportsEndAndErr :
    (srcWait (atByte0 .endOfInput) = false ∧ (atByte0 .endOfInput).phase = .decB0 ∧
      (atByte0 .endOfInput).resp = .endOfInput) ∧
    (srcWait (atByte1 .endOfInput) = false ∧ (atByte1 .endOfInput).phase = .decB1 ∧
      (atByte1 .endOfInput).resp = .endOfInput) ∧
    (srcWait (atTail [0xC0#8] 2 .endOfInput) = false ∧ (atTail [0xC0#8] 2 .endOfInput).phase = .decTail ∧
      (atTail [0xC0#8] 2 .endOfInput).resp = .endOfInput) ∧
    (srcWait (atByte0 .sourceError) = false ∧ (atByte0 .sourceError).phase = .decB0 ∧
      (atByte0 .sourceError).resp = .sourceError) := by decide

/-- The shortest frame, and the longest of the greatest value with bytes on both sides. -/
theorem witness_DecodeReturnsEveryFrame :
    (let s := decoding ([] ++ frameBytes 1 0 ++ []) 0
     1 ≤ 1 ∧ 0 < 2 ^ (7 * 1 - 1) ∧ s.hpv = false ∧ s.schedule = [] ∧ s.phase = .decStart ∧ s.op = some 0x02#8 ∧
       s.status = 0x00000001#32 ∧ s.source = some ⟨[] ++ frameBytes 1 0 ++ [], ([] : List Byte).length, false, .over⟩) ∧
    (let s := decoding ([0x80#8] ++ frameBytes 10 (2 ^ 64 - 1) ++ [0x81#8]) 1
     10 ≤ 10 ∧ 2 ^ 64 - 1 < 2 ^ (7 * 10 - 1) ∧ 2 ^ 64 - 1 < 2 ^ 64 ∧ s.hpv = false ∧ s.schedule = [] ∧
       s.phase = .decStart ∧ s.op = some 0x02#8 ∧ s.status = 0x00000001#32 ∧
       s.source = some ⟨[0x80#8] ++ frameBytes 10 (2 ^ 64 - 1) ++ [0x81#8], [0x80#8].length, false, .over⟩) := by decide

theorem witness_EncThenDecRoundTrip :
    (let s := accepted 0x01#8 0x12C#64
     s.hpv = false ∧ s.schedule = [] ∧ s.phase = .exec ∧ s.op = some 0x01#8 ∧ s.status = 0x00000001#32 ∧
       s.opnd = some 0x12C#64) ∧
    (let s := decoding [0xC1#8, 0x2C#8] 0
     s.hpv = false ∧ s.schedule = [] ∧ s.phase = .decStart ∧ s.op = some 0x02#8 ∧ s.status = 0x00000001#32 ∧
       (nextOf (step (accepted 0x01#8 0x12C#64))).map
         (fun e => some (SourceAgent.mk (e.frame.toList.take e.resLen.toNat) 0 false .over)) = some s.source) := by decide

theorem witness_TruncatedFrameIsAnError :
    (let s := decoding ([] ++ (frameBytes 1 5).take (1 - 1)) 0
     1 ≤ 1 ∧ 5 < 2 ^ (7 * 1 - 1) ∧ s.hpv = false ∧ s.schedule = [] ∧ s.phase = .decStart ∧ s.op = some 0x02#8 ∧
       s.status = 0x00000001#32 ∧
       s.source = some ⟨[] ++ (frameBytes 1 5).take (1 - 1), ([] : List Byte).length, false, .over⟩) ∧
    (let s := decoding ([] ++ (frameBytes 10 5).take (10 - 1)) 0
     5 < 2 ^ (7 * 10 - 1) ∧ s.source = some ⟨[] ++ (frameBytes 10 5).take (10 - 1), ([] : List Byte).length, false, .over⟩) := by
  decide

/-- A DECODE at each of its phases, with no request outstanding. -/
theorem witness_DecodeStepsMakeProgress :
    (∀ s ∈ [decoding [] 0, atByte0 (.data [0xFF#8]), atByte1 .sourceError, atTail [0xC0#8] 2 (.data [0x40#8])],
      inv s = true ∧ inDecode s = true ∧ srcWait s = false) := by decide

/-- A DECODE at each of its phases, with ByteSourceOver connected. -/
theorem witness_AnsweredDecodeCompletes :
    (∀ s ∈ [decoding [0x80#8] 0, waiting (atByte0 .none), atByte1 .endOfInput, waiting (atTail [0xC0#8] 2 .none)],
      inv s = true ∧ s.hpv = false ∧ s.schedule = [] ∧ inDecode s = true ∧
        s.source.any (fun a => a.kind == .over) = true) := by decide

theorem witness_ReservedOpcodeIsIllegalCommand :
    (accepted 0x00#8 0#64).phase = .exec ∧ (accepted 0xFF#8 0#64).phase = .exec := ⟨rfl, rfl⟩

/-- A command that needs no operand while ARG holds none, and the three that need one. -/
theorem witness_CmdWriteIsAccepted :
    (∀ c ∈ [0x00#8, 0x02#8, 0x05#8, 0xFF#8],
      let s := hostDoes (wrCmd c) State.reset
      s.hpv = false ∧ s.schedule = [.host] ∧ s.hostProgram = [.access (.write 0x00 1 (c.setWidth 64))] ∧
        busy s = false ∧ (c = 0x01#8 ∨ c = 0x03#8 ∨ c = 0x04#8 → s.arg ≠ none)) ∧
    (∀ c ∈ [0x01#8, 0x03#8, 0x04#8],
      let s := hostDoes (wrCmd c) finished
      s.hpv = false ∧ s.schedule = [.host] ∧ s.hostProgram = [.access (.write 0x00 1 (c.setWidth 64))] ∧
        busy s = false ∧ s.arg ≠ none) := by decide

theorem witness_ArgWriteStoresTheOperand :
    (let s := hostDoes (wrArg 0xFFFFFFFFFFFFFFFF#64) State.reset
     s.hpv = false ∧ s.schedule = [.host] ∧ s.hostProgram = [.access (.write 0x08 8 0xFFFFFFFFFFFFFFFF#64)] ∧
       busy s = false) := by decide

/-- Every register the host can read, FRAME at its first and last byte, after a completion. -/
theorem witness_ReadsReturnTheRegister :
    (∀ r ∈ [HostReg.arg, .status, .resValue, .resLen, .frame 0, .frame 9],
      (hostDoes (rd r) finished).hpv = false ∧ (hostDoes (rd r) finished).schedule = [.host]) ∧
    finished.arg = some 7#64 ∧ done finished = true ∧ (0x31 : Fin 64).val = 0x28 + (9 : Fin 10).val ∧
    ([HostReg.arg, .status, .resValue, .resLen, .frame 0, .frame 9].map fun r =>
      (nextOf (step (hostDoes (rd r) finished))).map fun t => t.hostReads.map fun x => x.data.toNat) =
      [some [7], some [2], some [0x3F], some [1], some [0xBF], some [9]] := by decide

/-- Each of the violations, on the state it needs. -/
theorem witness_HostProtocolViolationsStop :
    (busy (hostDoes (wrCmd 0x02#8) (decoding [] 0)) = true ∧ busy (hostDoes (wrArg 1#64) (decoding [] 0)) = true) ∧
    (∀ r ∈ [HostReg.resValue, .resLen, .frame 0, .frame 9], done (hostDoes (rd r) State.reset) = false ∧
      markOf (step (hostDoes (rd r) State.reset)) = some (true, some .resultReadWhileNotDone)) ∧
    markOf (step (hostDoes (rd .cmd) State.reset)) = some (true, some .wrongDirection) ∧
    (∀ p ∈ [((0x10 : Fin 64), 4), (0x18, 8), (0x20, 1), (0x28, 1), (0x31, 1)],
      markOf (step (hostDoes (.access (.write p.1 p.2 0#64)) finished)) = some (true, some .wrongDirection)) ∧
    (∀ p ∈ [((0x01 : Fin 64), 1), (0x00, 2), (0x08, 4), (0x0C, 4), (0x14, 4), (0x21, 1), (0x27, 1), (0x32, 1), (0x3F, 1), (0x28, 2)],
      markOf (step (hostDoes (.access (.read p.1 p.2)) finished)) = some (true, some .badOffsetOrWidth) ∧
        markOf (step (hostDoes (.access (.write p.1 p.2 0#64)) finished)) = some (true, some .badOffsetOrWidth)) ∧
    ((hostDoes (rd .arg) State.reset).arg = none ∧ (hostDoes (rd .arg) State.reset).hpv = false) ∧
    (∀ c ∈ [0x01#8, 0x03#8, 0x04#8],
      busy (hostDoes (wrCmd c) State.reset) = false ∧ (hostDoes (wrCmd c) State.reset).arg = none) := by decide

theorem witness_OperandlessCommandIsMarked :
    (∀ i ∈ [Instr.enc, .mfb, .pcb],
      let s := { accepted (opcodeOf i) 0#64 with opnd := none }
      readsArg i = true ∧ s.phase = .exec ∧ s.opnd = none) := by decide

theorem witness_SrcAndResetStatements :
    (let s := hostDoes (.src [0x80#8]) State.reset
     s.hpv = false ∧ s.schedule = [.host] ∧ s.hostProgram = [.src [0x80#8]]) ∧
    (let s := hostDoes .reset finished
     s.hpv = false ∧ s.schedule = [.host] ∧ s.hostProgram = [.reset]) := by decide

/-- A WAIT that goes on, and one that reads again. -/
theorem witness_WaitReadsStatusUntilDone :
    (let s := hostDoes .wait finished
     s.hpv = false ∧ s.schedule = [.host] ∧ s.hostProgram = [.wait] ∧ done s = true) ∧
    (let s := hostDoes .wait (decoding [] 0)
     s.hpv = false ∧ s.schedule = [.host] ∧ s.hostProgram = [.wait] ∧ done s = false) := by decide

theorem witness_BusByteOrderKeepsTheNumber : 2 ^ 64 - 1 < 2 ^ (8 * 8) ∧ 0x86 < 2 ^ (8 * 4) := by decide

theorem witness_ResetReturnsTheBlockToIdle :
    (let s := { finished with schedule := [.reset] }
     s.hpv = false ∧ s.schedule = [.reset] ∧ inDecode s = false) := by decide

/-- A reset while a DECODE waits for its tail, and while an ENC is in progress. -/
theorem witness_ResetAbandonsTheOperation :
    (let s := { waiting (atTail [0xC0#8] 2 .none) with schedule := [.reset, .source .data] }
     s.hpv = false ∧ s.schedule = .reset :: .source .data :: [] ∧ busy s = true ∧ inDecode s = true ∧
       s.source = some ⟨[], 0, false, .over⟩) ∧
    (let s := { accepted 0x01#8 5#64 with schedule := [.reset, .source .data] }
     s.hpv = false ∧ s.schedule = .reset :: .source .data :: [] ∧ busy s = true) := by decide

/-- Each one-step operation answers a next state, in EXEC with and without an operand, and outside it. -/
theorem witness_OneStepOperationsFrame :
    (∀ i ∈ [Instr.enc, .mfb, .pcb, .reserved 0x05#8],
      i ≠ .dec ∧ (nextOf (exec i (accepted 0x01#8 5#64))).isSome = true ∧
        State.reset.phase ≠ .exec ∧ (nextOf (exec i State.reset)).isSome = true) ∧
    markOf (exec .enc { accepted 0x01#8 5#64 with opnd := none }) = some (true, some .argHoldsNoValue) := by decide

/-- A DECODE step that stays in it, one that leaves it, and one outside it. -/
theorem witness_DecodeFrame :
    (nextOf (exec .dec (decoding [] 0))).map (·.phase) = some .decB0 ∧
      (nextOf (exec .dec (atByte0 .endOfInput))).map (·.phase) = some .idle ∧ inDecode State.reset = false := by decide

/-- A completion without an error, and one with each error the one-step operations and a DECODE report. -/
theorem witness_ErrorsLeaveNoResult :
    ([exec .mfb (accepted 0x03#8 64#64), exec .mfb (accepted 0x03#8 65#64), exec .dec (atByte0 .endOfInput),
      exec .dec (atByte1 .endOfInput), exec .dec (atByte0 .sourceError), exec .dec (atByte0 (.data [0x00#8])),
      exec .dec (atByte1 (.data [0xE0#8])), exec .dec (atByte1 (.data [0xC1#8])),
      exec (.reserved 0x00#8) (accepted 0x00#8 0#64)].map fun o =>
        (nextOf o).map fun t => (decide (t.phase = .idle), t.status.toNat)) =
      [some (true, 0x02), some (true, 0x16), some (true, 0x26), some (true, 0x36), some (true, 0x46), some (true, 0x56),
       some (true, 0x66), some (true, 0x76), some (true, 0x86)] := by decide

/-- The results change in a completion, and in a reset. -/
theorem witness_ResultsChangeOnlyAtCompletionOrReset :
    ((nextOf (step (accepted 0x03#8 64#64))).map fun t => decide (keepsResults (accepted 0x03#8 64#64) t)) = some false ∧
      ((nextOf (step { finished with schedule := [.reset] })).map fun t => decide (keepsResults finished t)) =
        some false := by decide

/-- Each event of the table, from a state that has the invariant: reset, acceptance, request, answer, success, error. -/
theorem witness_StatusChangesOnlyAtTheListedEvents :
    ([{ finished with schedule := [.reset] }, hostDoes (wrCmd 0x02#8) State.reset, decoding [] 0, waiting (atByte0 .none),
      accepted 0x03#8 64#64, accepted 0x03#8 65#64].map fun s =>
        (inv s, s.status.toNat, (nextOf (step s)).map fun t => t.status.toNat)) =
      [(true, 2, some 0), (true, 0, some 1), (true, 1, some 9), (true, 9, some 1), (true, 1, some 2),
       (true, 1, some 0x16)] := by decide

theorem witness_OperandIsLatchedOnlyAtAcceptance :
    ((nextOf (step (hostDoes (wrArg 5#64) State.reset))).map fun t => (t.arg, t.op)) = some (some 5#64, none) ∧
      ((nextOf (step (hostDoes (wrCmd 0x03#8) finished))).map fun t => (t.op, t.opnd)) =
        some (some 0x03#8, some 7#64) := by decide

/-- A state of every phase that has the invariant and takes a step. -/
theorem witness_StepKeepsTheInvariant :
    (∀ s ∈ [finished, accepted 0x01#8 5#64, decoding [] 0, atByte0 (.data [0xFF#8]), atByte1 (.data [0xC0#8]),
        atTail [0xFF#8, 0xC0#8] 10 (.data (List.replicate 8 0xFF#8))],
      inv s = true ∧ (nextOf (step s)).isSome = true) := by decide

/-- A busy state, one that reports an error, and one that waits. -/
theorem witness_InvariantGivesTheStatusRules :
    (inv (accepted 0x01#8 5#64) = true ∧ busy (accepted 0x01#8 5#64) = true) ∧
    (let s := { finished with status := 0x00000086#32 }
     inv s = true ∧ error s = true ∧ errCode s ≠ 0#4) ∧
    (inv (waiting (atByte0 .none)) = true ∧ srcWait (waiting (atByte0 .none)) = true) := by decide

/-- Two states of a waiting DECODE that differ in the encoder's buffer, unread staging bytes and unreadable results. -/
theorem witness_LeftoversAreNeverObservable :
    let s := waiting (atTail [0xC0#8] 2 .none)
    let t := { s with
      ebuf := Vector.replicate 10 0xAA#8, t0 := 7, resValue := 9#64
      dbuf := storeBytes [0xC0#8, 0x55#8] 0 (Vector.replicate 10 0#8) }
    inv s = true ∧ inv t = true ∧ s ≠ t ∧ differOnlyInLeftovers s t := by
  refine ⟨by decide, by decide, by decide, by decide, rfl, rfl, rfl, by decide, ?_⟩
  show _ = _ ∧ _ = _ ∧ _ = _ ∧ _ = _ ∧ _ = _ ∧ sliceBytes _ 0 1 = sliceBytes _ 0 1
  exact ⟨rfl, rfl, rfl, rfl, rfl, by decide⟩

end Sys2Proof.Tests
end

section
/-! SUPPORT. What one agent's turn can do to a state, said once: every invariant of the whole machine is a case
analysis on it. -/

namespace Sys2Proof.Machine

/-! The encoder's length. -/

theorem sigBits_le (v : Value) : sigBits v ≤ 64 := by
  unfold sigBits
  split
  · omega
  · rename_i h
    have := (Nat.log2_lt h).mpr v.isLt
    omega

theorem growLength_le (fuel t s : Nat) : growLength fuel t s ≤ t + fuel := by
  induction fuel generalizing t with
  | zero => simp [growLength]
  | succ fuel ih =>
    have := ih (t + 1)
    simp only [growLength]
    split <;> omega

/-- The encoder's frame fits its buffer (41_encoder R122). -/
theorem encodeLength_le (v : Value) : encodeLength v ≤ 10 := by
  have hg := growLength_le (Config.maxT - minimalFrameBytes (sigBits v)) (minimalFrameBytes (sigBits v)) (sigBits v)
  have hs := sigBits_le v
  simp only [encodeLength, minimalFrameBytes, Config.maxT] at hg ⊢
  omega

/-- A length of at most 10 keeps its bound in RES_LEN (10_state R28). -/
theorem toNat_resLen_le {n : Nat} (h : n ≤ 10) : (BitVec.ofNat 8 n).toNat ≤ 10 :=
  (BitVec.toNat_ofNat n 8).trans_le ((Nat.mod_le n _).trans h)

/-! The events. -/

/-- What one agent's turn can do to a state, event by event (00_scope R17, 10_state R36, 60_exceptions R200 to R210). -/
inductive TurnEffect (s : State) : State → Prop
  /-- A read, a statement without an effect on the block, a new source agent, or nothing. -/
  | blockUntouched (prog : List HostStmt) (reads : List BusRead) (source : Option SourceAgent) :
      TurnEffect s { s with hostProgram := prog, hostReads := reads, source := source }
  /-- A host-protocol violation. -/
  | marked (v : Violation) (prog : List HostStmt) : TurnEffect s (markViolation v { s with hostProgram := prog })
  /-- A write to ARG. -/
  | argWritten (d : Value) (prog : List HostStmt) (hb : busy s = false) :
      TurnEffect s { s with hostProgram := prog, arg := some d }
  /-- An acceptance. -/
  | accepted (c : Byte) (prog : List HostStmt) (hb : busy s = false)
      (ha : readsArg (decodeOpcode c) = true → s.arg.isSome = true) :
      TurnEffect s (latchCommand c s.arg { s with hostProgram := prog })
  /-- A reset, by the host's statement or at the platform's own turn. -/
  | reset (prog : List HostStmt) : TurnEffect s (resetEvent { s with hostProgram := prog })
  /-- An answer to the outstanding request. -/
  | answered (c : SourceChoice) (a b : SourceAgent) (r : Response) (hw : srcWait s = true)
      (ha : sourceAnswer c s.reqN a = some (r, b)) :
      TurnEffect s { s with resp := r, status := withoutSrcWait s.status, source := some b }
  /-- A step of a DECODE. -/
  | decoded : TurnEffect s (decodeStep s)
  /-- A one-step operation that completes, with a result or with an error; an ENC leaves its working buffer. -/
  | completed (v : Value) (l : Byte) (fr : TenBytes) (st : Word32) (eb : TenBytes) (t0 : Nat) (hp : s.phase = .exec)
      (hl : l.toNat ≤ 10) (hst : st = statusDone ∨ ∃ e, st = statusError e) :
      TurnEffect s (finish v l fr st { s with ebuf := eb, t0 := t0 })

/-! Whose turn it is. -/

section Step
variable {s : State}

theorem step_of_marked (hm : s.hpv = true) : step s = .fault .hpvMarkSet := by
  simp only [step, nextTurn, hm, if_true]

theorem step_of_schedule {turn : Turn} {rest : List Turn} (hm : s.hpv = false) (hs : s.schedule = turn :: rest) :
    step s = takeTurn turn { s with schedule := rest } := by
  simp only [step, nextTurn, hm, hs, Bool.false_eq_true, if_false]

theorem step_of_nil (hm : s.hpv = false) (hs : s.schedule = []) : step s = takeTurn (eagerTurn s) s := by
  simp only [step, nextTurn, hm, hs, Bool.false_eq_true, if_false]

end Step

/-! What each turn does is one of the events. -/

/-- A turn with no effect at all. -/
theorem TurnEffect.refl (s : State) : TurnEffect s s := .blockUntouched s.hostProgram s.hostReads s.source

/-- A bus access reads, writes ARG, is accepted as a command, or is a violation (20_memory R53, 60_exceptions R210). -/
theorem turnEffect_accessOrMark (a : Access) (prog : List HostStmt) (s : State) :
    TurnEffect s (accessOrMark a { s with hostProgram := prog }) := by
  rcases accessOrMark_cases a { s with hostProgram := prog } with h | ⟨v, h⟩
  · rcases busAccess_ok h with ⟨o, w, d, ht⟩ | ⟨hb, d, ht⟩ | ⟨c, hc⟩
    · exact ht ▸ .blockUntouched prog (⟨o, w, d⟩ :: s.hostReads) s.source
    · exact ht ▸ .argWritten d prog hb
    · obtain ⟨hb, ha, ht⟩ := acceptCommand_ok hc
      exact ht ▸ .accepted c prog hb ha
  · exact h ▸ .marked v prog

theorem turnEffect_hostTurn (s : State) : TurnEffect s (hostTurn s) := by
  rcases hostTurn_cases s with h | ⟨a, prog, _, h⟩ | ⟨prog, _, h⟩ | ⟨prog, _, h⟩ | ⟨bytes, prog, _, h⟩ <;> rw [h]
  · exact .refl s
  · exact turnEffect_accessOrMark a prog s
  · unfold waitStatus
    split
    · exact .blockUntouched prog _ s.source
    · exact .blockUntouched s.hostProgram _ s.source
  · exact .reset prog
  · exact .blockUntouched prog s.hostReads _

theorem turnEffect_exec {i : Instr} {s t : State} (h : exec i s = .next t) : TurnEffect s t := by
  rcases exec_next i s t h with ⟨_, rfl⟩ | ⟨_, _, rfl⟩ |
    ⟨_, hp, ⟨_, _, rfl⟩ | ⟨e, rfl⟩ | ⟨v, l, _, hl, rfl⟩ | ⟨v, _, rfl⟩⟩
  · exact .decoded
  · exact .refl _
  · exact .marked .argHoldsNoValue s.hostProgram
  · exact .completed 0#64 0#8 (tenBytes []) (statusError e) s.ebuf s.t0 hp (by decide) (.inr ⟨e, rfl⟩)
  · exact .completed v l (tenBytes []) statusDone s.ebuf s.t0 hp hl (.inl rfl)
  · exact .completed 0#64 (BitVec.ofNat 8 (encodeLength v)) (tenBytes (encodeFrame v)) statusDone
      (storeBytes (encodeFrame v) 0 s.ebuf) (encodeLength v) hp (toNat_resLen_le (encodeLength_le v)) (.inl rfl)

theorem turnEffect_takeTurn {turn : Turn} {s t : State} (h : takeTurn turn s = .next t) : TurnEffect s t := by
  cases turn with
  | host => cases h; exact turnEffect_hostTurn s
  | block =>
    rcases blockTurn_cases s with ⟨c, _, _, hc⟩ | ⟨hc, _⟩
    · exact turnEffect_exec (hc.symm.trans h)
    · cases hc.symm.trans h; exact .refl s
  | source c =>
    cases h
    rcases answerRequest_cases c s with ha | ⟨a, r, b, hw, _, hr, ha⟩ <;> rw [ha]
    · exact .refl s
    · exact .answered c a b r hw hr
  | reset => cases h; exact .reset s.hostProgram
  | connect a => cases h; exact .blockUntouched s.hostProgram s.hostReads (some a)

/-- A step is the effect of one turn, from a state without the mark, less the turn it used up. -/
theorem turnEffect_of_step {s t : State} (h : step s = .next t) :
    s.hpv = false ∧ ∃ rest, TurnEffect { s with schedule := rest } t := by
  obtain ⟨hm, turn, rest, ht⟩ := step_next h
  exact ⟨hm, rest, turnEffect_takeTurn ht⟩

/-- Only a violation touches the mark and its name, and it does nothing else (10_state R35, 60_exceptions R210). -/
theorem TurnEffect.mark_cases {s t : State} (h : TurnEffect s t) :
    (t.hpv = s.hpv ∧ t.violation = s.violation) ∨ ∃ v prog, t = markViolation v { s with hostProgram := prog } := by
  cases h with
  | marked v prog => exact .inr ⟨v, prog, rfl⟩
  | decoded =>
    obtain ⟨⟨_, _, _, _, _, _, _, _, hm, hv⟩, _⟩ := decodeStep_frame s
    exact .inl ⟨hm, hv⟩
  | _ => exact .inl ⟨rfl, rfl⟩

end Sys2Proof.Machine
end

section
/-! SUPPORT. The invariant of the block, phase by phase, and what each event of a turn does to it. -/

namespace Sys2Proof.Machine

/-! The values of STATUS. -/

/-- STATUS between operations, one value per line of the table (10_state R36). -/
theorem idleStatus_iff (w : Word32) :
    idleStatus w = true ↔ w = 0x00000000#32 ∨ w = statusDone ∨ ∃ e, w = statusError e := by
  constructor
  · intro h
    simp only [idleStatus, allErrors, Bool.or_eq_true, beq_iff_eq, List.any_eq_true] at h
    rcases h with (h | h) | ⟨e, _, h⟩
    · exact .inl h
    · exact .inr (.inl h)
    · exact .inr (.inr ⟨e, h⟩)
  · rintro (rfl | rfl | ⟨e, rfl⟩)
    · decide
    · exact idleStatus_statusDone
    · exact idleStatus_statusError e

/-- A property of the values of the table holds of every STATUS between operations. -/
theorem of_idleStatus {p : Word32 → Prop} {w : Word32} (h : idleStatus w = true) (h0 : p 0x00000000#32)
    (hd : p statusDone) (he : ∀ e, p (statusError e)) : p w := by
  rcases (idleStatus_iff w).mp h with rfl | rfl | ⟨e, rfl⟩
  · exact h0
  · exact hd
  · exact he e

/-- Between operations BUSY and SRC_WAIT are 0 (10_state R36). -/
theorem idleStatus_flags {w : Word32} (h : idleStatus w = true) : w.getLsbD 0 = false ∧ w.getLsbD 3 = false :=
  of_idleStatus (p := fun w => w.getLsbD 0 = false ∧ w.getLsbD 3 = false) h (by decide) (by decide)
    fun e => by cases e <;> decide

/-- A completion sets DONE (60_exceptions R202, R203). -/
theorem getLsbD_one_of_completion {w : Word32} (h : w = statusDone ∨ ∃ e, w = statusError e) : w.getLsbD 1 = true := by
  rcases h with rfl | ⟨e, rfl⟩
  · rfl
  · cases e <;> rfl

@[simp] theorem getLsbD_withSrcWait_one (w : Word32) : (withSrcWait w).getLsbD 1 = w.getLsbD 1 := by
  simp [withSrcWait]

@[simp] theorem getLsbD_withoutSrcWait_one (w : Word32) : (withoutSrcWait w).getLsbD 1 = w.getLsbD 1 := by
  simp [withoutSrcWait]

/-- STATUS of a completion, as a number (60_exceptions R202, R203). -/
theorem toNat_of_completion {w : Word32} (h : w = statusDone ∨ ∃ e, w = statusError e) :
    w = 0x00000002#32 ∨ ∃ e, w.toNat = 0x06 + (codeOf e).toNat * 16 :=
  h.imp_right fun ⟨e, he⟩ => ⟨e, he ▸ toNat_statusError e⟩

/-- What R26 says of the flags of one STATUS: not BUSY and DONE, no ERROR without DONE, ERRCODE exactly with ERROR, and
the reserved bits 0. -/
abbrev flagsConsistent (w : Word32) : Prop :=
  (w.getLsbD 0 = true → w.getLsbD 1 = false) ∧ (w.getLsbD 2 = true → w.getLsbD 1 = true) ∧
    (w.extractLsb' 4 4 ≠ 0#4 ↔ w.getLsbD 2 = true) ∧ w.extractLsb' 8 24 = 0#24

/-! The invariant by phase. -/

section Phases
variable {s : State}

theorem inv_iff : inv s = true ↔ blockConsistent s = true ∧ s.hpv = s.violation.isSome := by simp [inv]

theorem blockConsistent_idle (hp : s.phase = .idle) :
    blockConsistent s = true ↔ s.resLen.toNat ≤ 10 ∧ idleStatus s.status = true ∧ s.resp = .none := by
  simp [blockConsistent, hp, Config.maxT]

theorem blockConsistent_exec (hp : s.phase = .exec) :
    blockConsistent s = true ↔
      s.resLen.toNat ≤ 10 ∧ s.status = statusAccepted ∧ s.resp = .none ∧ execConsistent s = true := by
  simp [blockConsistent, hp, Config.maxT, and_assoc]

theorem blockConsistent_decStart (hp : s.phase = .decStart) :
    blockConsistent s = true ↔
      s.resLen.toNat ≤ 10 ∧ s.status = statusAccepted ∧ s.resp = .none ∧ s.op = some 0x02#8 := by
  simp [blockConsistent, hp, Config.maxT, and_assoc]

theorem blockConsistent_decB0 (hp : s.phase = .decB0) :
    blockConsistent s = true ↔ s.resLen.toNat ≤ 10 ∧ portConsistent s = true ∧ s.op = some 0x02#8 ∧
      s.reqN = 1 ∧ s.nread = 0 ∧ s.f = 0 := by
  simp [blockConsistent, hp, Config.maxT, and_assoc]

theorem blockConsistent_decB1 (hp : s.phase = .decB1) :
    blockConsistent s = true ↔ s.resLen.toNat ≤ 10 ∧ portConsistent s = true ∧ s.op = some 0x02#8 ∧
      s.reqN = 1 ∧ s.nread = 1 ∧ s.f = 1 ∧ byteAt s.dbuf 0 = 0xFF#8 := by
  simp [blockConsistent, hp, Config.maxT, and_assoc]

theorem blockConsistent_decTail (hp : s.phase = .decTail) :
    blockConsistent s = true ↔
      s.resLen.toNat ≤ 10 ∧ portConsistent s = true ∧ s.op = some 0x02#8 ∧ tailConsistent s = true := by
  simp [blockConsistent, hp, Config.maxT, and_assoc]

end Phases

/-- A waiting phase: the request is outstanding with an empty slot, or STATUS is that of the acceptance (10_state R36). -/
theorem portConsistent_cases {s : State} (h : portConsistent s = true) :
    s.status = withSrcWait statusAccepted ∨ s.status = statusAccepted := by
  unfold portConsistent at h
  split at h <;> simp only [Bool.and_eq_true, beq_iff_eq] at h
  · exact .inl h
  · exact .inr h.1
  · exact .inr h
  · exact .inr h

/-- Every consistent state is between operations, or in one with the STATUS of its acceptance, or waits in a DECODE for
an answer to a request of 1 to 8 bytes (10_state R36, 42_bytesource R141). -/
theorem blockConsistent_cases {s : State} (h : blockConsistent s = true) :
    (s.phase = .idle ∧ idleStatus s.status = true) ∨ (s.phase ≠ .idle ∧ s.status = statusAccepted) ∨
      ((s.phase = .decB0 ∨ s.phase = .decB1 ∨ s.phase = .decTail) ∧ s.status = withSrcWait statusAccepted ∧
        s.op = some 0x02#8 ∧ 1 ≤ s.reqN ∧ s.reqN ≤ 8) := by
  cases hp : s.phase with
  | idle => exact .inl ⟨rfl, ((blockConsistent_idle hp).mp h).2.1⟩
  | exec => exact .inr (.inl ⟨by simp, ((blockConsistent_exec hp).mp h).2.1⟩)
  | decStart => exact .inr (.inl ⟨by simp, ((blockConsistent_decStart hp).mp h).2.1⟩)
  | decB0 =>
    obtain ⟨_, hport, ho, hn, _⟩ := (blockConsistent_decB0 hp).mp h
    exact .inr ((portConsistent_cases hport).symm.imp (⟨by simp, ·⟩) (⟨by simp, ·, ho, by omega, by omega⟩))
  | decB1 =>
    obtain ⟨_, hport, ho, hn, _⟩ := (blockConsistent_decB1 hp).mp h
    exact .inr ((portConsistent_cases hport).symm.imp (⟨by simp, ·⟩) (⟨by simp, ·, ho, by omega, by omega⟩))
  | decTail =>
    obtain ⟨_, hport, ho, htail⟩ := (blockConsistent_decTail hp).mp h
    obtain ⟨_, _, _, _, _, _, _, _, h1, h8, _⟩ := tailConsistent_spec htail
    exact .inr ((portConsistent_cases hport).symm.imp (⟨by simp, ·⟩) (⟨by simp, ·, ho, h1, h8⟩))

theorem resLen_le_of_blockConsistent {s : State} (h : blockConsistent s = true) : s.resLen.toNat ≤ 10 := by
  simp only [blockConsistent, Bool.and_eq_true, decide_eq_true_eq] at h
  exact h.1

/-- BUSY = 1 exactly in an operation (10_state R26, R31). -/
theorem busy_iff_of_blockConsistent {s : State} (h : blockConsistent s = true) : busy s = true ↔ s.phase ≠ .idle := by
  rcases blockConsistent_cases h with ⟨hp, hs⟩ | ⟨hp, hs⟩ | ⟨hp, hs, _⟩
  · simp [busy_def, hp, (idleStatus_flags hs).1, -BitVec.getLsbD_eq_getElem]
  · simp [busy, hp, hs, statusAccepted]
  · rcases hp with hp | hp | hp <;> simp [busy, hp, hs, statusAccepted, withSrcWait]

/-- SRC_WAIT = 1 exactly while STATUS is 0x09, in a waiting phase (10_state R36, 42_bytesource R143). -/
theorem waiting_of_srcWait {s : State} (h : blockConsistent s = true) (hw : srcWait s = true) :
    (s.phase = .decB0 ∨ s.phase = .decB1 ∨ s.phase = .decTail) ∧ s.status = withSrcWait statusAccepted ∧
      s.op = some 0x02#8 ∧ 1 ≤ s.reqN ∧ s.reqN ≤ 8 := by
  rcases blockConsistent_cases h with ⟨_, hs⟩ | ⟨_, hs⟩ | hs
  · rw [srcWait_def, (idleStatus_flags hs).2] at hw; cases hw
  · rw [srcWait_def, hs] at hw; cases hw
  · exact hs

/-- A DECODE takes a step only out of the STATUS of the acceptance (42_bytesource R144, R145). -/
theorem decodeStep_eq_or_accepted {s : State} (h : blockConsistent s = true) :
    decodeStep s = s ∨ s.status = statusAccepted := by
  rcases blockConsistent_cases h with ⟨hp, _⟩ | ⟨_, hs⟩ | ⟨hp, hs, _⟩
  · exact .inl (by simp [decodeStep, hp])
  · exact .inr hs
  · have hw : srcWait s = true := by simp [srcWait_def, hs, -BitVec.getLsbD_eq_getElem]
    rcases hp with hp | hp | hp <;> exact .inl (by simp [decodeStep, hp, takeResponse, hw])

/-- A step of a DECODE does nothing, issues a request or completes (43_decoder R161). -/
theorem decodeStep_events (s : State) :
    decodeStep s = s ∨
      (inDecode s = true ∧ inDecode (decodeStep s) = true ∧ keepsResults s (decodeStep s) ∧
        (decodeStep s).status = withSrcWait s.status) ∨
      (s.phase ≠ .idle ∧ (decodeStep s).phase = .idle ∧
        ((decodeStep s).status = statusDone ∨ ∃ e, (decodeStep s).status = statusError e)) := by
  obtain ⟨_, _, h | h | ⟨hd, hi, hst⟩⟩ := decodeStep_frame s
  · exact .inl h
  · exact .inr (.inl h)
  · have hp : s.phase ≠ .idle := fun hp => by simp [inDecode, hp] at hd
    exact .inr (.inr ⟨hp, hi, hst.symm.imp_right fun ⟨e, he, _⟩ => ⟨e, he⟩⟩)

/-- The flags of STATUS in every consistent state (10_state R26). -/
theorem statusFlags_of_blockConsistent {s : State} (h : blockConsistent s = true) : flagsConsistent s.status := by
  rcases blockConsistent_cases h with ⟨_, hs⟩ | ⟨_, hs⟩ | ⟨_, hs, _⟩
  · exact of_idleStatus hs (by decide) (by decide) fun e => by cases e <;> decide
  · rw [hs]; decide
  · rw [hs]; decide

/-! Completions and requests. -/

/-- A completion with a STATUS of the table and a length of at most 10, from an empty slot. -/
theorem blockConsistent_finish {v : Value} {l : Byte} {fr : TenBytes} {st : Word32} {s : State} (hl : l.toNat ≤ 10)
    (hst : idleStatus st = true) (hr : s.resp = .none) : blockConsistent (finish v l fr st s) = true :=
  (blockConsistent_idle rfl).mpr ⟨hl, hst, hr⟩

theorem blockConsistent_raiseError {e : ArchError} {s : State} (hr : s.resp = .none) :
    blockConsistent (raiseError e s) = true :=
  blockConsistent_finish (by decide) (idleStatus_statusError e) hr

theorem blockConsistent_complete {v : Value} {l : Byte} {fr : TenBytes} {s : State} (hl : l.toNat ≤ 10)
    (hr : s.resp = .none) : blockConsistent (complete v l fr s) = true :=
  blockConsistent_finish hl idleStatus_statusDone hr

theorem blockConsistent_completeDecode {i : Nat} {s : State} (ht : s.frameT ≤ 10) (hr : s.resp = .none) :
    blockConsistent (completeDecode i s) = true :=
  blockConsistent_complete (toNat_resLen_le ht) hr

/-- A request out of the STATUS of the acceptance (42_bytesource R143). -/
theorem portConsistent_requestBytes {n : Nat} {p : Phase} {s : State} (hs : s.status = statusAccepted) :
    portConsistent (requestBytes n p s) = true := by
  simp [portConsistent, hs]

/-- An answer to an outstanding request leaves a whole response in the slot (42_bytesource R142, R144). -/
theorem portConsistent_answered {c : SourceChoice} {a b : SourceAgent} {r : Response} {s : State}
    (hs : s.status = withSrcWait statusAccepted) (ha : sourceAnswer c s.reqN a = some (r, b)) :
    portConsistent { s with resp := r, status := withoutSrcWait s.status, source := some b } = true := by
  rcases sourceAnswer_some ha with hd | ⟨rfl, _⟩ | ⟨_, _, rfl, _⟩
  · obtain ⟨_, hlen, rfl, _⟩ := dataAnswer_some hd
    have hmin : min s.reqN (a.bytes.length - a.pos) = s.reqN := by omega
    simp [portConsistent, hs, hmin]
  · simp [portConsistent, hs]
  · simp [portConsistent, hs]

/-- An answer is never the empty slot. -/
theorem sourceAnswer_ne_none {c : SourceChoice} {n : Nat} {a b : SourceAgent} {r : Response}
    (h : sourceAnswer c n a = some (r, b)) : r ≠ .none := by
  rcases sourceAnswer_some h with hd | ⟨rfl, _⟩ | ⟨_, _, rfl, _⟩
  · obtain ⟨_, _, rfl, _⟩ := dataAnswer_some hd
    simp
  · simp
  · simp

/-! The steps of a DECODE. -/

/-- Byte i after one byte has been written at it. -/
theorem byteAt_storeBytes_self (b : Byte) {i : Nat} (v : TenBytes) (hi : i < 10) :
    byteAt (storeBytes [b] i v) i = b := by
  simp [storeBytes, byteAt, Vector.getD, hi]

/-- The terminating byte of a run of f bytes 0xFF gives an error, the request for the missing bytes or the value
(43_decoder R166 to R171). -/
theorem blockConsistent_onTerminatingByte {b : Byte} {s : State} (hb : b ≠ 0xFF#8) (hd : byteAt s.dbuf s.f = b)
    (hf : s.f ≤ 1) (hn : s.nread = s.f + 1) (hl : s.resLen.toNat ≤ 10) (hst : s.status = statusAccepted)
    (ho : s.op = some 0x02#8) (hr : s.resp = .none) : blockConsistent (onTerminatingByte b s) = true := by
  have hk := clo8_le_seven b hb
  rcases onTerminatingByte_cases b s with ⟨_, h⟩ | ⟨_, h⟩ | ⟨_, _, h⟩ | ⟨_, hle, hten, ⟨hlt, h⟩ | ⟨_, h⟩⟩ <;> rw [h]
  · exact blockConsistent_raiseError hr
  · exact blockConsistent_raiseError hr
  · exact blockConsistent_raiseError hr
  · refine (blockConsistent_decTail rfl).mpr ⟨hl, portConsistent_requestBytes hst, ho, ?_⟩
    simp only [tailConsistent, requestBytes, hd, Config.maxT, Config.maxSrcReq, Bool.and_eq_true, decide_eq_true_eq]
    exact ⟨⟨⟨hf, hk, trivial, trivial, by omega, hle⟩, decide_eq_true (by omega)⟩, hten⟩
  · exact blockConsistent_completeDecode hle hr

theorem blockConsistent_onByte0 {b : Byte} {s : State} (hl : s.resLen.toNat ≤ 10) (hst : s.status = statusAccepted)
    (ho : s.op = some 0x02#8) (hr : s.resp = .none) (hf : s.f = 0) : blockConsistent (onByte0 b s) = true := by
  have hd : byteAt (storeBytes [b] 0 s.dbuf) 0 = b := byteAt_storeBytes_self b s.dbuf (by omega)
  unfold onByte0
  split
  · rename_i hb
    exact (blockConsistent_decB1 rfl).mpr ⟨hl, portConsistent_requestBytes hst, ho, rfl, rfl, rfl, hd.trans hb⟩
  · rename_i hb
    exact blockConsistent_onTerminatingByte hb (by simpa [hf] using hd) (by simp [hf]) (by simp [hf]) hl hst ho hr

theorem blockConsistent_onByte1 {b : Byte} {s : State} (hl : s.resLen.toNat ≤ 10) (hst : s.status = statusAccepted)
    (ho : s.op = some 0x02#8) (hr : s.resp = .none) (hf : s.f = 1) : blockConsistent (onByte1 b s) = true := by
  have hd : byteAt (storeBytes [b] 1 s.dbuf) 1 = b := byteAt_storeBytes_self b s.dbuf (by omega)
  unfold onByte1
  split
  · exact blockConsistent_raiseError hr
  · rename_i hb
    exact blockConsistent_onTerminatingByte hb (by simpa [hf] using hd) (by simp [hf]) (by simp [hf]) hl hst ho hr

/-- A take step keeps the invariant where what it does with the bytes does (42_bytesource R145). -/
theorem blockConsistent_takeResponse {n : Nat} {e : ArchError} {g : List Byte → State → State} {s : State}
    (h : blockConsistent s = true) (hport : portConsistent s = true)
    (hg : ∀ bytes, s.status = statusAccepted → blockConsistent (g bytes { s with resp := .none }) = true) :
    blockConsistent (takeResponse n e g s) = true := by
  rcases takeResponse_cases n e g s with ht | ⟨hw, ⟨_, ht⟩ | ⟨_, ht⟩ | ⟨bytes, _, _, ht⟩⟩ <;> rw [ht]
  · exact h
  · exact blockConsistent_raiseError rfl
  · exact blockConsistent_raiseError rfl
  · exact hg bytes (status_of_answered s hport hw)

/-- A step of a DECODE, by its phase (43_decoder R161). -/
theorem blockConsistent_decodeStep {s : State} (h : blockConsistent s = true) : blockConsistent (decodeStep s) = true := by
  rcases decodeStep_cases s with ⟨_, hd⟩ | ⟨hp, hd⟩ | ⟨hp, hd⟩ | ⟨hp, hd⟩ | ⟨hp, hd⟩ <;> rw [hd]
  · exact h
  · obtain ⟨hl, hst, _, ho⟩ := (blockConsistent_decStart hp).mp h
    exact (blockConsistent_decB0 rfl).mpr ⟨hl, portConsistent_requestBytes hst, ho, rfl, rfl, rfl⟩
  · obtain ⟨hl, hport, ho, _, _, hf⟩ := (blockConsistent_decB0 hp).mp h
    exact blockConsistent_takeResponse h hport fun _ hst => blockConsistent_onByte0 hl hst ho rfl hf
  · obtain ⟨hl, hport, ho, _, _, hf, _⟩ := (blockConsistent_decB1 hp).mp h
    exact blockConsistent_takeResponse h hport fun _ hst => blockConsistent_onByte1 hl hst ho rfl hf
  · obtain ⟨_, hport, _, htail⟩ := (blockConsistent_decTail hp).mp h
    obtain ⟨_, _, _, _, _, ht, _⟩ := tailConsistent_spec htail
    exact blockConsistent_takeResponse h hport fun _ _ => blockConsistent_completeDecode ht rfl

/-! The other events. -/

/-- An acceptance out of IDLE (60_exceptions R200). -/
theorem blockConsistent_latchCommand {c : Byte} {o : Option Value} {s : State} (hl : s.resLen.toNat ≤ 10)
    (hr : s.resp = .none) (ho : readsArg (decodeOpcode c) = true → o.isSome = true) :
    blockConsistent (latchCommand c o s) = true := by
  by_cases hc : c = 0x02#8
  · exact (blockConsistent_decStart (by simp [hc])).mpr ⟨hl, rfl, hr, by simp [hc]⟩
  · refine (blockConsistent_exec (by simp [hc])).mpr ⟨hl, rfl, hr, ?_⟩
    cases hra : readsArg (decodeOpcode c) <;> simp_all [execConsistent]

/-- An answer, in each of the waiting phases (42_bytesource R144). -/
theorem blockConsistent_answered {c : SourceChoice} {a b : SourceAgent} {r : Response} {s : State}
    (h : blockConsistent s = true) (hw : srcWait s = true) (ha : sourceAnswer c s.reqN a = some (r, b)) :
    blockConsistent { s with resp := r, status := withoutSrcWait s.status, source := some b } = true := by
  obtain ⟨hp, hs, _⟩ := waiting_of_srcWait h hw
  have hport := portConsistent_answered hs ha
  rcases hp with hp | hp | hp
  · obtain ⟨hl, _, hrest⟩ := (blockConsistent_decB0 hp).mp h
    exact (blockConsistent_decB0 (by exact hp)).mpr ⟨hl, hport, hrest⟩
  · obtain ⟨hl, _, hrest⟩ := (blockConsistent_decB1 hp).mp h
    exact (blockConsistent_decB1 (by exact hp)).mpr ⟨hl, hport, hrest⟩
  · obtain ⟨hl, _, hrest⟩ := (blockConsistent_decTail hp).mp h
    exact (blockConsistent_decTail (by exact hp)).mpr ⟨hl, hport, hrest⟩

/-- In EXEC the slot is empty and STATUS is that of the acceptance. -/
theorem exec_of_blockConsistent {s : State} (h : blockConsistent s = true) (hp : s.phase = .exec) :
    s.status = statusAccepted ∧ s.resp = .none := by
  obtain ⟨_, hst, hr, _⟩ := (blockConsistent_exec hp).mp h
  exact ⟨hst, hr⟩

/-- Each event of a turn leaves the block consistent. -/
theorem TurnEffect.blockConsistent {s t : State} (he : TurnEffect s t) (h : blockConsistent s = true) :
    blockConsistent t = true := by
  cases he with
  | blockUntouched prog reads source => exact h
  | marked v prog => exact h
  | argWritten d prog hb => exact h
  | accepted c prog hb ha =>
    have hp : s.phase = .idle := by
      by_contra hp
      simp [(busy_iff_of_blockConsistent h).mpr hp] at hb
    obtain ⟨hl, _, hr⟩ := (blockConsistent_idle hp).mp h
    exact blockConsistent_latchCommand hl hr ha
  | reset prog => exact (blockConsistent_idle rfl).mpr ⟨by simp, by simp [idleStatus], rfl⟩
  | answered c a b r hw ha => exact blockConsistent_answered h hw ha
  | decoded => exact blockConsistent_decodeStep h
  | completed v l fr st eb t0 hp hl hst =>
    exact blockConsistent_finish hl ((idleStatus_iff st).mpr (.inr hst)) (exec_of_blockConsistent h hp).2

/-- Each event of a turn keeps the invariant: the block's consistency, and the mark where a violation is named. -/
theorem TurnEffect.inv {s t : State} (he : TurnEffect s t) (h : inv s = true) : inv t = true := by
  obtain ⟨hc, hm⟩ := inv_iff.mp h
  refine inv_iff.mpr ⟨he.blockConsistent hc, ?_⟩
  rcases he.mark_cases with ⟨hh, hv⟩ | ⟨v, prog, rfl⟩
  · rw [hh, hv, hm]
  · rfl

end Sys2Proof.Machine
end

section
/-! SUPPORT. Two states that differ only in leftovers: each shared operation, done to both, leaves them so. -/

namespace Sys2Proof.Machine

/-! The bytes of the staging buffer that have been read. -/

theorem byteAt_eq_sliceBytes {n i : Nat} (v : TenBytes) (hi : i < n) : byteAt v i = (sliceBytes v 0 n).getD i 0x00#8 := by
  simp [byteAt_eq_getD, sliceBytes, hi]

theorem sliceBytes_zero_one (v : TenBytes) : sliceBytes v 0 1 = [byteAt v 0] := by
  have hl : v.toList.length = 10 := by simp
  rw [byteAt_eq_getD, sliceBytes]
  match v.toList, hl with
  | b :: bs, _ => rfl

/-- One byte more has been read. -/
theorem sliceBytes_storeBytes_singleton (b : Byte) {n : Nat} (v : TenBytes) (hn : n < 10) :
    sliceBytes (storeBytes [b] n v) 0 (n + 1) = sliceBytes v 0 n ++ [b] := by
  have hlen : (v.toList.take n ++ [b]).length = n + 1 := by simp; omega
  rw [sliceBytes, toList_storeBytes [b] n v (by simp; omega), List.drop_zero, List.take_append_of_le_length hlen.ge,
    List.take_of_length_le hlen.le]
  simp [sliceBytes]

/-- The value of a DECODE is made of its terminating byte and the bytes of its tail. -/
theorem assembleValue_congr {u v : TenBytes} {k t i : Nat} (hb : byteAt u (i - 1) = byteAt v (i - 1))
    (hs : sliceBytes u i t = sliceBytes v i t) : assembleValue u k t i = assembleValue v k t i := by
  rw [assembleValue, assembleValue, hb, hs]

/-! The relation. -/

/-- Where DONE and the results stay, so does what a host can read of them (10_state R30). -/
theorem readableResults_eq_of_keepsResults {s t : State} (hd : done t = done s) (hk : keepsResults s t) :
    readableResults t = readableResults s := by
  obtain ⟨hv, hl, hf⟩ := hk
  rw [readableResults, readableResults, hd, hv, hl, hf]

/-- A request shows no result and hides none (42_bytesource R143). -/
theorem readableResults_requestBytes (n : Nat) (p : Phase) (s : State) :
    readableResults (requestBytes n p s) = readableResults s :=
  readableResults_eq_of_keepsResults (getLsbD_withSrcWait_one s.status) ⟨rfl, rfl, rfl⟩

/-- Nor does an answer (42_bytesource R144). -/
theorem readableResults_answered (r : Response) (b : Option SourceAgent) (s : State) :
    readableResults { s with resp := r, status := withoutSrcWait s.status, source := b } = readableResults s :=
  readableResults_eq_of_keepsResults (getLsbD_withoutSrcWait_one s.status) ⟨rfl, rfl, rfl⟩

/-- The checks of the terminating byte, over the state that has stored k and T (60_exceptions R212). -/
theorem onTerminatingByte_eq (b : Byte) (s : State) :
    onTerminatingByte b s =
      if 8 * s.f + clo8 b = 0 then raiseError .malformedZeroRun (terminated b s)
      else if 10 < 8 * s.f + clo8 b then raiseError .malformedOverlong (terminated b s)
      else if 8 * s.f + clo8 b = 10 ∧ headBits b (clo8 b) ≠ 0x00#8 then raiseError .malformedOverflow (terminated b s)
      else if 0 < 8 * s.f + clo8 b - s.nread then
        requestBytes (8 * s.f + clo8 b - s.nread) .decTail (terminated b s)
      else completeDecode s.nread (terminated b s) := rfl

/-- What two states that differ only in leftovers share, whatever the phase: all but the staging values. -/
def visiblyAgree (s t : State) : Prop :=
  keepsOutside s t ∧ t.status = s.status ∧ t.phase = s.phase ∧ t.resp = s.resp ∧ readableResults t = readableResults s

theorem differOnlyInLeftovers_iff {s t : State} :
    differOnlyInLeftovers s t ↔ visiblyAgree s t ∧ liveStagingAgrees s t := by
  simp only [differOnlyInLeftovers, visiblyAgree, and_assoc]

/-- Two bus accesses that no access can tell apart: the same violation, or agreeing effects. -/
def accessesAgree : Except Violation State → Except Violation State → Prop
  | .ok s, .ok t => differOnlyInLeftovers s t
  | .error v, .error w => v = w
  | _, _ => False

section Visible
variable {s t : State} (h : visiblyAgree s t)
include h

/-- A completion rewrites all that could be shown and leaves no staging value live. -/
theorem differOnlyInLeftovers_finish (v : Value) (l : Byte) (fr : TenBytes) (st : Word32) :
    differOnlyInLeftovers (finish v l fr st s) (finish v l fr st t) := by
  obtain ⟨ho, _, _, hr, _⟩ := h
  exact ⟨ho, rfl, rfl, hr, rfl, trivial⟩

/-- A request, where the staging values live in the phase it enters agree. -/
theorem differOnlyInLeftovers_requestBytes {n : Nat} {p : Phase}
    (hl : liveStagingAgrees (requestBytes n p s) (requestBytes n p t)) :
    differOnlyInLeftovers (requestBytes n p s) (requestBytes n p t) := by
  obtain ⟨ho, hst, _, _, hres⟩ := h
  have hres' : readableResults (requestBytes n p t) = readableResults (requestBytes n p s) := by
    rw [readableResults_requestBytes, readableResults_requestBytes, hres]
  exact ⟨ho, congrArg withSrcWait hst, rfl, rfl, hres', hl⟩

theorem differOnlyInLeftovers_completeDecode {i : Nat} (ht : t.frameT = s.frameT)
    (hv : assembleValue t.dbuf t.k s.frameT i = assembleValue s.dbuf s.k s.frameT i) :
    differOnlyInLeftovers (completeDecode i s) (completeDecode i t) := by
  rw [completeDecode, completeDecode, ht, hv]
  exact differOnlyInLeftovers_finish h _ _ _ _

/-- From the terminating byte on, where the bytes read so far agree (43_decoder R160). -/
theorem differOnlyInLeftovers_onTerminatingByte {b : Byte} (hf : t.f = s.f) (hn : t.nread = s.nread)
    (h1 : 1 ≤ s.nread) (hd : sliceBytes t.dbuf 0 s.nread = sliceBytes s.dbuf 0 s.nread) :
    differOnlyInLeftovers (onTerminatingByte b s) (onTerminatingByte b t) := by
  have h' : visiblyAgree (terminated b s) (terminated b t) := h
  have ht : 8 * t.f + clo8 b = 8 * s.f + clo8 b := by rw [hf]
  rw [onTerminatingByte_eq, onTerminatingByte_eq, hf, hn]
  split
  · exact differOnlyInLeftovers_finish h' _ _ _ _
  split
  · exact differOnlyInLeftovers_finish h' _ _ _ _
  split
  · exact differOnlyInLeftovers_finish h' _ _ _ _
  split
  · exact differOnlyInLeftovers_requestBytes h' (p := .decTail) ⟨hn, hf, rfl, rfl, ht, hd⟩
  · have hbyte : byteAt t.dbuf (s.nread - 1) = byteAt s.dbuf (s.nread - 1) := by
      have hi : s.nread - 1 < s.nread := Nat.sub_lt h1 Nat.one_pos
      rw [byteAt_eq_sliceBytes _ hi, byteAt_eq_sliceBytes _ hi, hd]
    have hle : (terminated b s).frameT ≤ s.nread := show 8 * s.f + clo8 b ≤ s.nread by omega
    refine differOnlyInLeftovers_completeDecode h' ht (assembleValue_congr hbyte ?_)
    rw [sliceBytes_of_le _ _ _ hle, sliceBytes_of_le _ _ _ hle]

/-- Frame byte 0 decides alone (43_decoder R167). -/
theorem differOnlyInLeftovers_onByte0 {b : Byte} (hf : t.f = s.f) :
    differOnlyInLeftovers (onByte0 b s) (onByte0 b t) := by
  have hd : sliceBytes (storeBytes [b] 0 t.dbuf) 0 1 = sliceBytes (storeBytes [b] 0 s.dbuf) 0 1 := by
    rw [sliceBytes_storeBytes_singleton b _ (by omega), sliceBytes_storeBytes_singleton b _ (by omega),
      sliceBytes_of_le _ _ _ le_rfl, sliceBytes_of_le _ _ _ le_rfl]
  unfold onByte0
  split
  · refine differOnlyInLeftovers_requestBytes (p := .decB1) (by exact h) ⟨rfl, rfl, rfl, ?_⟩
    exact (byteAt_storeBytes_self b t.dbuf (by omega)).trans (byteAt_storeBytes_self b s.dbuf (by omega)).symm
  · exact differOnlyInLeftovers_onTerminatingByte (by exact h) hf rfl le_rfl hd

/-- Frame byte 1 decides with byte 0 (43_decoder R168). -/
theorem differOnlyInLeftovers_onByte1 {b : Byte} (hf : t.f = s.f) (h0 : byteAt t.dbuf 0 = byteAt s.dbuf 0) :
    differOnlyInLeftovers (onByte1 b s) (onByte1 b t) := by
  have hd : sliceBytes (storeBytes [b] 1 t.dbuf) 0 2 = sliceBytes (storeBytes [b] 1 s.dbuf) 0 2 := by
    rw [sliceBytes_storeBytes_singleton b _ (by omega), sliceBytes_storeBytes_singleton b _ (by omega),
      sliceBytes_zero_one, sliceBytes_zero_one, h0]
  unfold onByte1
  split
  · exact differOnlyInLeftovers_finish (by exact h) _ _ _ _
  · exact differOnlyInLeftovers_onTerminatingByte (by exact h) hf rfl (Nat.le_succ 1) hd

/-- The tail completes the value over the bytes read before it (43_decoder R170). -/
theorem differOnlyInLeftovers_onTail {bytes : List Byte} (hn : t.nread = s.nread) (hk : t.k = s.k)
    (hT : t.frameT = s.frameT) (h1 : 1 ≤ s.nread) (hlen : s.nread + bytes.length = s.frameT) (h10 : s.frameT ≤ 10)
    (hd : sliceBytes t.dbuf 0 s.nread = sliceBytes s.dbuf 0 s.nread) :
    differOnlyInLeftovers (onTail bytes s) (onTail bytes t) := by
  have hi : s.nread - 1 < s.nread := Nat.sub_lt h1 Nat.one_pos
  have hle : s.nread + bytes.length ≤ 10 := hlen.trans_le h10
  have hbyte : byteAt (storeBytes bytes s.nread t.dbuf) (s.nread - 1) =
      byteAt (storeBytes bytes s.nread s.dbuf) (s.nread - 1) := by
    rw [byteAt_storeBytes_of_lt _ _ _ _ hle hi, byteAt_storeBytes_of_lt _ _ _ _ hle hi,
      byteAt_eq_sliceBytes _ hi, byteAt_eq_sliceBytes _ hi, hd]
  have htail : sliceBytes (storeBytes bytes s.nread t.dbuf) s.nread s.frameT =
      sliceBytes (storeBytes bytes s.nread s.dbuf) s.nread s.frameT := by
    rw [← hlen, sliceBytes_storeBytes _ _ _ hle, sliceBytes_storeBytes _ _ _ hle]
  rw [onTail, onTail, hn]
  refine differOnlyInLeftovers_completeDecode (by exact h) hT ?_
  exact (congrArg (assembleValue _ · _ _) hk).trans (assembleValue_congr hbyte htail)

end Visible

/-! The agents' turns. -/

section Turns
variable {s t : State} (h : differOnlyInLeftovers s t)
include h

theorem visiblyAgree_of_differ : visiblyAgree s t := (differOnlyInLeftovers_iff.mp h).1

/-- Neither takes a step, or both take the same response (42_bytesource R145). -/
theorem differOnlyInLeftovers_takeResponse {n : Nat} {e : ArchError} {g : List Byte → State → State}
    (hg : ∀ bytes, bytes.length = n →
      differOnlyInLeftovers (g bytes { s with resp := .none }) (g bytes { t with resp := .none })) :
    differOnlyInLeftovers (takeResponse n e g s) (takeResponse n e g t) := by
  obtain ⟨ho, hst, hp, hr, hres, _⟩ := id h
  have hw : srcWait t = srcWait s := by rw [srcWait_def, srcWait_def, hst]
  have hv : visiblyAgree { s with resp := .none } { t with resp := .none } := ⟨ho, hst, hp, rfl, hres⟩
  rw [takeResponse, takeResponse, hw, hr]
  split
  · exact h
  · cases s.resp with
    | none => exact h
    | endOfInput => exact differOnlyInLeftovers_finish hv _ _ _ _
    | sourceError => exact differOnlyInLeftovers_finish hv _ _ _ _
    | data bytes =>
      dsimp only
      split
      · exact hg bytes ‹_›
      · exact h

/-- A step of a DECODE reads no staging value but those it has written (10_state R34). -/
theorem differOnlyInLeftovers_decodeStep (hc : blockConsistent s = true) :
    differOnlyInLeftovers (decodeStep s) (decodeStep t) := by
  obtain ⟨ho, hst, hp, hr, hres, hl⟩ := id h
  have hv : visiblyAgree { s with resp := .none } { t with resp := .none } := ⟨ho, hst, hp, rfl, hres⟩
  rw [decodeStep, decodeStep, hp]
  unfold liveStagingAgrees at hl
  cases hph : s.phase with
  | idle => exact h
  | exec => exact h
  | decStart =>
    have hv := visiblyAgree_of_differ h
    exact differOnlyInLeftovers_requestBytes (p := .decB0) (by exact hv) ⟨rfl, rfl, rfl⟩
  | decB0 =>
    simp only [hph] at hl
    obtain ⟨_, hf, _⟩ := hl
    exact differOnlyInLeftovers_takeResponse h fun _ _ => differOnlyInLeftovers_onByte0 hv hf
  | decB1 =>
    simp only [hph] at hl
    obtain ⟨_, hf, _, h0⟩ := hl
    exact differOnlyInLeftovers_takeResponse h fun _ _ => differOnlyInLeftovers_onByte1 hv hf h0
  | decTail =>
    simp only [hph] at hl
    obtain ⟨hn, _, hreq, hk, hT, hd⟩ := hl
    obtain ⟨_, _, _, htail⟩ := (blockConsistent_decTail hph).mp hc
    obtain ⟨_, _, _, _, _, h10, hn1, hsum, _⟩ := tailConsistent_spec htail
    dsimp only
    rw [hreq]
    exact differOnlyInLeftovers_takeResponse h fun bytes hlen =>
      differOnlyInLeftovers_onTail hv hn hk hT (show 1 ≤ s.nread by omega)
        (show s.nread + bytes.length = s.frameT by omega) h10 hd

/-! One-step operations. -/

theorem outcomesAgree_oneStep {operation : State → State} (hop : differOnlyInLeftovers (operation s) (operation t)) :
    outcomesAgree (oneStep operation s) (oneStep operation t) := by
  obtain ⟨_, _, hp, _⟩ := id h
  rw [oneStep, oneStep, hp]
  show differOnlyInLeftovers _ _
  split
  · exact hop
  · exact h

theorem differOnlyInLeftovers_markViolation (v : Violation) :
    differOnlyInLeftovers (markViolation v s) (markViolation v t) := by
  obtain ⟨⟨harg, hop, hopnd, hsrc, hprog, hreads, hsched, hdraws, _, _⟩, hrest⟩ := h
  exact ⟨⟨harg, hop, hopnd, hsrc, hprog, hreads, hsched, hdraws, rfl, rfl⟩, hrest⟩

theorem differOnlyInLeftovers_withOperand {operation : Value → State → State}
    (hop : ∀ v, differOnlyInLeftovers (operation v s) (operation v t)) :
    differOnlyInLeftovers (withOperand operation s) (withOperand operation t) := by
  obtain ⟨⟨_, _, hopnd, _⟩, _⟩ := id h
  rw [withOperand, withOperand, hopnd]
  cases s.opnd with
  | some v => exact hop v
  | none => exact differOnlyInLeftovers_markViolation h _

/-- The block's step of any command (60_exceptions R209, 43_decoder R161). -/
theorem outcomesAgree_exec (i : Instr) (hc : blockConsistent s = true) : outcomesAgree (exec i s) (exec i t) := by
  have hv := visiblyAgree_of_differ h
  cases i with
  | enc =>
    exact outcomesAgree_oneStep h (differOnlyInLeftovers_withOperand h fun v =>
      differOnlyInLeftovers_finish (by exact hv) _ _ _ _)
  | dec => exact differOnlyInLeftovers_decodeStep h hc
  | mfb =>
    refine outcomesAgree_oneStep h (differOnlyInLeftovers_withOperand h fun v => ?_)
    unfold minFrameBytesOp
    split
    · exact differOnlyInLeftovers_finish hv _ _ _ _
    · exact differOnlyInLeftovers_finish hv _ _ _ _
  | pcb =>
    refine outcomesAgree_oneStep h (differOnlyInLeftovers_withOperand h fun v => ?_)
    unfold payloadCapacityOp
    split
    · exact differOnlyInLeftovers_finish hv _ _ _ _
    · exact differOnlyInLeftovers_finish hv _ _ _ _
  | reserved c => exact outcomesAgree_oneStep h (differOnlyInLeftovers_finish hv _ _ _ _)

/-! The host. -/

theorem differOnlyInLeftovers_recordRead (o : Fin 64) (w : Nat) (d : Value) :
    differOnlyInLeftovers (recordRead o w d s) (recordRead o w d t) := by
  obtain ⟨⟨harg, hop, hopnd, hsrc, hprog, hreads, hmarks⟩, hrest⟩ := h
  exact ⟨⟨harg, hop, hopnd, hsrc, hprog, congrArg (_ :: ·) hreads, hmarks⟩, hrest⟩

theorem differOnlyInLeftovers_hostProgram (prog : List HostStmt) :
    differOnlyInLeftovers { s with hostProgram := prog } { t with hostProgram := prog } := by
  obtain ⟨⟨harg, hop, hopnd, hsrc, _, hmore⟩, hrest⟩ := h
  exact ⟨⟨harg, hop, hopnd, hsrc, rfl, hmore⟩, hrest⟩

theorem differOnlyInLeftovers_schedule (rest : List Turn) :
    differOnlyInLeftovers { s with schedule := rest } { t with schedule := rest } := by
  obtain ⟨⟨harg, hop, hopnd, hsrc, hprog, hreads, _, hmarks⟩, hrest⟩ := h
  exact ⟨⟨harg, hop, hopnd, hsrc, hprog, hreads, rfl, hmarks⟩, hrest⟩

theorem differOnlyInLeftovers_connectSource (a : SourceAgent) :
    differOnlyInLeftovers (connectSource a s) (connectSource a t) := by
  obtain ⟨⟨harg, hop, hopnd, _, hmore⟩, hrest⟩ := h
  exact ⟨⟨harg, hop, hopnd, rfl, hmore⟩, hrest⟩

theorem differOnlyInLeftovers_arg (d : Value) :
    differOnlyInLeftovers { s with arg := some d } { t with arg := some d } := by
  obtain ⟨⟨_, hmore⟩, hrest⟩ := h
  exact ⟨⟨rfl, hmore⟩, hrest⟩

/-- An acceptance hides the results and makes every staging value a leftover (60_exceptions R200). -/
theorem differOnlyInLeftovers_latchCommand (c : Byte) (o : Option Value) :
    differOnlyInLeftovers (latchCommand c o s) (latchCommand c o t) := by
  obtain ⟨⟨harg, _, _, hmore⟩, _, _, hr, _⟩ := h
  have hdone : ∀ u, readableResults (latchCommand c o u) = none := fun u => if_neg (by simp [done_def, statusAccepted])
  refine ⟨⟨harg, rfl, rfl, hmore⟩, rfl, rfl, hr, by rw [hdone, hdone], ?_⟩
  by_cases hc : c = 0x02#8 <;> simp [liveStagingAgrees, hc]

/-- A reset leaves no leftover at all (70_reset R230). -/
theorem differOnlyInLeftovers_resetEvent : differOnlyInLeftovers (resetEvent s) (resetEvent t) := by
  obtain ⟨⟨_, _, _, hsrc, hprog, hreads, hsched, hdraws, hhpv, hviol⟩, _, hp, _⟩ := h
  have hd : inDecode t = inDecode s := by rw [inDecode, inDecode, hp]
  have hsrc' : sourceAfterReset t = sourceAfterReset s := by
    rw [sourceAfterReset, sourceAfterReset, hd, hsrc, hdraws]
  exact ⟨⟨rfl, rfl, rfl, hsrc', hprog, hreads, hsched, by simp [hd, hdraws], hhpv, hviol⟩, rfl, rfl, rfl, rfl, trivial⟩

theorem done_eq_of_differ : done t = done s := by
  obtain ⟨_, hst, _⟩ := h
  rw [done_def, done_def, hst]

theorem busy_eq_of_differ : busy t = busy s := by
  obtain ⟨_, hst, _⟩ := h
  rw [busy_def, busy_def, hst]

/-- A result register gives both the same number, or both the violation (10_state R30). -/
theorem readResult_eq_of_differ {field : Value × Byte × TenBytes → Value} :
    readResult (field (t.resValue, t.resLen, t.frame)) t = readResult (field (s.resValue, s.resLen, s.frame)) s := by
  obtain ⟨_, _, _, _, hres, _⟩ := id h
  rw [readResult, readResult, done_eq_of_differ h]
  cases hd : done s with
  | false => rfl
  | true =>
    simp only [readableResults, done_eq_of_differ h, hd, if_true, Option.some.injEq] at hres
    simp [hres]

/-- A read hands the host the same number of both, or is the same violation of both (20_memory R53). -/
theorem hostRead_eq_of_differ (r : HostReg) : hostRead r t = hostRead r s := by
  obtain ⟨⟨harg, _⟩, hst, _⟩ := id h
  cases r with
  | cmd => rfl
  | arg => rw [hostRead, hostRead, harg]
  | status => rw [hostRead, hostRead, hst]
  | resValue => exact readResult_eq_of_differ h (field := fun p => p.1)
  | resLen => exact readResult_eq_of_differ h (field := fun p => p.2.1.setWidth 64)
  | frame j => exact readResult_eq_of_differ h (field := fun p => (byteAt p.2.2 j.val).setWidth 64)

/-- An access is accepted of both, with agreeing effects, or is the same violation of both. -/
theorem accessesAgree_acceptCommand (c : Byte) : accessesAgree (acceptCommand c s) (acceptCommand c t) := by
  obtain ⟨⟨harg, _⟩, _⟩ := id h
  rw [acceptCommand, acceptCommand, busy_eq_of_differ h, harg]
  split
  · exact rfl
  · split
    · exact rfl
    · exact differOnlyInLeftovers_latchCommand h c s.arg

theorem accessesAgree_hostWrite (r : HostReg) (d : Value) : accessesAgree (hostWrite r d s) (hostWrite r d t) := by
  cases r with
  | cmd => exact accessesAgree_acceptCommand h _
  | arg =>
    rw [hostWrite, hostWrite, busy_eq_of_differ h]
    split
    · exact rfl
    · exact differOnlyInLeftovers_arg h d
  | status => exact rfl
  | resValue => exact rfl
  | resLen => exact rfl
  | frame j => exact rfl

theorem accessesAgree_busAccess (a : Access) : accessesAgree (busAccess a s) (busAccess a t) := by
  cases a with
  | read o w =>
    rw [busAccess, busAccess]
    cases hostRegAt o w with
    | none => exact rfl
    | some r =>
      dsimp only
      rw [hostRead_eq_of_differ h r]
      cases hostRead r s with
      | error v => exact rfl
      | ok d => exact differOnlyInLeftovers_recordRead h o w d
  | write o w d =>
    rw [busAccess, busAccess]
    cases hostRegAt o w with
    | none => exact rfl
    | some r => exact accessesAgree_hostWrite h r d

theorem differOnlyInLeftovers_accessOrMark (a : Access) :
    differOnlyInLeftovers (accessOrMark a s) (accessOrMark a t) := by
  have ha := accessesAgree_busAccess h a
  rw [accessOrMark, accessOrMark]
  cases hs : busAccess a s <;> cases ht : busAccess a t <;> rw [hs, ht] at ha
  case ok.ok => exact ha
  case error.error v w => cases ha; exact differOnlyInLeftovers_markViolation h v
  all_goals exact ha.elim

theorem differOnlyInLeftovers_waitStatus (rest : List HostStmt) :
    differOnlyInLeftovers (waitStatus rest s) (waitStatus rest t) := by
  obtain ⟨_, hst, _⟩ := id h
  have hread := differOnlyInLeftovers_recordRead h 0x10 4 (s.status.setWidth 64)
  rw [waitStatus, waitStatus, done_eq_of_differ h, hst]
  split
  · exact differOnlyInLeftovers_hostProgram hread rest
  · exact hread

/-- The host executes the same statement on both (30_encoding R84). -/
theorem differOnlyInLeftovers_hostTurn : differOnlyInLeftovers (hostTurn s) (hostTurn t) := by
  obtain ⟨⟨_, _, _, _, hprog, _⟩, _⟩ := id h
  rw [hostTurn, hostTurn, hprog]
  cases hs : s.hostProgram with
  | nil => exact h
  | cons stmt rest =>
    have hpop := differOnlyInLeftovers_hostProgram h rest
    cases stmt with
    | access a => exact differOnlyInLeftovers_accessOrMark hpop a
    | wait => exact differOnlyInLeftovers_waitStatus h rest
    | reset => exact differOnlyInLeftovers_resetEvent hpop
    | src bytes => exact differOnlyInLeftovers_connectSource hpop _

/-! The turns. -/

/-- While a request is outstanding its size is live in both (10_state R34). -/
theorem reqN_eq_of_differ (hc : blockConsistent s = true) (hw : srcWait s = true) : t.reqN = s.reqN := by
  obtain ⟨_, _, _, _, _, hl⟩ := h
  unfold liveStagingAgrees at hl
  obtain ⟨hp, _⟩ := waiting_of_srcWait hc hw
  rcases hp with hp | hp | hp <;> simp only [hp] at hl
  · exact hl.2.2
  · exact hl.2.2.1
  · exact hl.2.2.1

/-- The agent gives both the same answer (42_bytesource R144). -/
theorem differOnlyInLeftovers_answerRequest (c : SourceChoice) (hc : blockConsistent s = true) :
    differOnlyInLeftovers (answerRequest c s) (answerRequest c t) := by
  obtain ⟨⟨harg, hop, hopnd, hsrc, hmore⟩, hst, hp, hr, hres, hl⟩ := id h
  have hw : srcWait t = srcWait s := by rw [srcWait_def, srcWait_def, hst]
  rw [answerRequest, answerRequest, hw]
  split
  · have hans : t.source.bind (sourceAnswer c t.reqN) = s.source.bind (sourceAnswer c s.reqN) := by
      rw [hsrc, reqN_eq_of_differ h hc ‹_›]
    rw [hans]
    cases s.source.bind (sourceAnswer c s.reqN) with
    | none => exact h
    | some p =>
      have hres' := (readableResults_answered p.1 (some p.2) t).trans
        (hres.trans (readableResults_answered p.1 (some p.2) s).symm)
      exact ⟨⟨harg, hop, hopnd, rfl, hmore⟩, congrArg withoutSrcWait hst, hp, rfl, hres', hl⟩
  · exact h

theorem currentCommand_eq_of_differ : currentCommand t = currentCommand s := by
  obtain ⟨⟨_, hop, _⟩, _, hp, _⟩ := h
  rw [currentCommand, currentCommand, hop, hp]

theorem eagerTurn_eq_of_differ : eagerTurn t = eagerTurn s := by
  obtain ⟨⟨_, _, _, hsrc, _⟩, hst, _⟩ := id h
  have hw : srcWait t = srcWait s := by rw [srcWait_def, srcWait_def, hst]
  have hblock : blockEnabled t = blockEnabled s := by rw [blockEnabled, blockEnabled, currentCommand_eq_of_differ h, hw]
  have hsource : sourceEnabled t = sourceEnabled s := by rw [sourceEnabled, sourceEnabled, hw, hsrc]
  rw [eagerTurn, eagerTurn, hblock, hsource]

/-- One agent's turn, on both. -/
theorem outcomesAgree_takeTurn (turn : Turn) (hc : blockConsistent s = true) :
    outcomesAgree (takeTurn turn s) (takeTurn turn t) := by
  cases turn with
  | host => exact differOnlyInLeftovers_hostTurn h
  | block =>
    rw [takeTurn, takeTurn, blockTurn, blockTurn, currentCommand_eq_of_differ h]
    cases currentCommand s with
    | none => exact h
    | some i => exact outcomesAgree_exec h i hc
  | source c => exact differOnlyInLeftovers_answerRequest h c hc
  | reset => exact differOnlyInLeftovers_resetEvent h
  | connect a => exact differOnlyInLeftovers_connectSource h a

/-- The same agent moves in both, or both are marked (60_exceptions R210). -/
theorem outcomesAgree_step (hc : blockConsistent s = true) : outcomesAgree (step s) (step t) := by
  obtain ⟨⟨_, _, _, _, _, _, hsched, _, hhpv, _⟩, _⟩ := id h
  cases hm : s.hpv with
  | true => rw [step_of_marked hm, step_of_marked (hhpv.trans hm)]; exact rfl
  | false =>
    cases hs : s.schedule with
    | nil =>
      rw [step_of_nil hm hs, step_of_nil (hhpv.trans hm) (hsched.trans hs), eagerTurn_eq_of_differ h]
      exact outcomesAgree_takeTurn h _ hc
    | cons turn rest =>
      rw [step_of_schedule hm hs, step_of_schedule (hhpv.trans hm) (hsched.trans hs)]
      exact outcomesAgree_takeTurn (differOnlyInLeftovers_schedule h rest) turn hc

end Turns

end Sys2Proof.Machine

open Sys2Proof Sys2Proof.Machine

/-- Settles O53: the same agent takes the same turn in both states, and each operation reads only what they share. -/
theorem leftoversAreNeverObservable : Obligations.LeftoversAreNeverObservable :=
  fun _ _ hs _ h => outcomesAgree_step h (inv_iff.mp hs).1
end

section
/-! SUPPORT. Proofs of the statements about the state that every step keeps. -/

open Sys2Proof Sys2Proof.Machine

/-- Settles O51: each event of a turn keeps the invariant, and the turn a step uses up is no part of it. -/
theorem stepKeepsTheInvariant : Obligations.StepKeepsTheInvariant := by
  intro s t hinv h
  obtain ⟨_, rest, he⟩ := turnEffect_of_step h
  exact he.inv hinv

/-- Settles O6: only a violation sets the mark, and it does nothing else. -/
theorem markedStatesTakeNoStep : Obligations.MarkedStatesTakeNoStep := by
  refine fun s => ⟨step_of_marked, fun t h => ?_⟩
  obtain ⟨hm, rest, he⟩ := turnEffect_of_step h
  refine ⟨hm, fun ht => ?_⟩
  rcases he.mark_cases with ⟨hk, _⟩ | ⟨v, prog, rfl⟩
  · simp [hk, hm] at ht
  · exact ⟨v, rfl⟩

/-- Settles O47, by the events of a turn. -/
theorem resultsChangeOnlyAtCompletionOrReset : Obligations.ResultsChangeOnlyAtCompletionOrReset := by
  intro s t h hres
  obtain ⟨_, rest, he⟩ := turnEffect_of_step h
  cases he with
  | reset prog => exact .inr ⟨rfl, rfl, rfl⟩
  | decoded =>
    rcases decodeStep_events { s with schedule := rest } with ht | ⟨_, _, hk, _⟩ | ⟨hp, hi, hst⟩
    · exact absurd (by simp [ht, keepsResults]) hres
    · exact absurd hk hres
    · exact .inl ⟨hp, hi, getLsbD_one_of_completion hst⟩
  | completed v l fr st eb t0 hp hl hst =>
    exact .inl ⟨(fun hi => nomatch hp.symm.trans hi), rfl, getLsbD_one_of_completion hst⟩
  | _ => exact absurd ⟨rfl, rfl, rfl⟩ hres

/-- Settles O48, by the events of a turn; the invariant gives STATUS before each. -/
theorem statusChangesOnlyAtTheListedEvents : Obligations.StatusChangesOnlyAtTheListedEvents := by
  intro s t hinv h
  obtain ⟨_, rest, he⟩ := turnEffect_of_step h
  have hc : blockConsistent { s with schedule := rest } = true := (inv_iff.mp hinv).1
  cases he with
  | blockUntouched prog reads source => exact .inl rfl
  | marked v prog => exact .inl rfl
  | argWritten d prog hb => exact .inl rfl
  | reset prog => exact .inr (.inl ⟨rfl, rfl, rfl, rfl⟩)
  | accepted c prog hb ha =>
    exact .inr (.inr (.inl ⟨hb, rfl, by simp only [latchCommand_phase]; split <;> simp, by simp⟩))
  | answered c a b r hw ha =>
    obtain ⟨_, hs, _⟩ := waiting_of_srcWait hc hw
    exact .inr (.inr (.inr (.inr (.inl
      ⟨hw, rfl, hs, (congrArg withoutSrcWait hs).trans rfl, sourceAnswer_ne_none ha⟩))))
  | decoded =>
    rcases decodeStep_eq_or_accepted hc with ht | hs
    · exact .inl (by rw [ht])
    · rcases decodeStep_events { s with schedule := rest } with ht | ⟨hd, hd', _, hst⟩ | ⟨hp, hi, hst⟩
      · exact .inl (by rw [ht])
      · exact .inr (.inr (.inr (.inl ⟨hd, hd', hs, hst.trans (congrArg withSrcWait hs)⟩)))
      · exact .inr (.inr (.inr (.inr (.inr ⟨hp, hi, hs, toNat_of_completion hst⟩))))
  | completed v l fr st eb t0 hp hl hst =>
    exact .inr (.inr (.inr (.inr (.inr
      ⟨(fun hi => nomatch hp.symm.trans hi), rfl, (exec_of_blockConsistent hc hp).1, toNat_of_completion hst⟩))))

/-- Settles O49, by the events of a turn. -/
theorem operandIsLatchedOnlyAtAcceptance : Obligations.OperandIsLatchedOnlyAtAcceptance := by
  intro s t h
  obtain ⟨_, rest, he⟩ := turnEffect_of_step h
  cases he with
  | argWritten d prog hb => exact ⟨.inr (.inl ⟨hb, d, rfl⟩), .inl ⟨rfl, rfl⟩⟩
  | accepted c prog hb ha => exact ⟨.inl rfl, .inr (.inl ⟨hb, nofun, rfl, rfl⟩)⟩
  | reset prog => exact ⟨.inr (.inr ⟨rfl, rfl, rfl⟩), .inr (.inr ⟨rfl, rfl, rfl⟩)⟩
  | decoded =>
    obtain ⟨⟨harg, hop, hopnd, _⟩, _⟩ := decodeStep_frame { s with schedule := rest }
    exact ⟨.inl harg, .inl ⟨hop, hopnd⟩⟩
  | _ => exact ⟨.inl rfl, .inl ⟨rfl, rfl⟩⟩

/-- Settles O52: the flags of each STATUS a consistent state can have. -/
theorem invariantGivesTheStatusRules : Obligations.InvariantGivesTheStatusRules := by
  intro s hinv
  have hc := (inv_iff.mp hinv).1
  obtain ⟨h1, h2, h3, h4⟩ := statusFlags_of_blockConsistent hc
  refine ⟨h1, h2, h3, fun hw => ?_, busy_iff_of_blockConsistent hc, h4, resLen_le_of_blockConsistent hc⟩
  obtain ⟨hp, _, ho, hn⟩ := waiting_of_srcWait hc hw
  exact ⟨(busy_iff_of_blockConsistent hc).mpr (by rcases hp with hp | hp | hp <;> simp [hp]), ho, hn⟩
end

section
/-! SUPPORT. The host's turn with a bus access: the register an offset names, and the step of an access that is no
violation. -/

namespace Sys2Proof.Machine

/-- FRAME[j] stands at offset 0x28 + j, one byte wide (20_memory R53, R55). -/
theorem hostRegAt_frame {o : Fin 64} {j : Fin 10} (ho : o.val = 0x28 + j.val) : hostRegAt o 1 = some (.frame j) := by
  have hj : o.val - 0x28 = j.val := by omega
  have hle : 0x28 ≤ o.val := by omega
  have h0 : o.val ≠ 0x00 := by omega
  have h20 : o.val ≠ 0x20 := by omega
  simp [hostRegAt, hj, hle, h0, h20]

theorem byteAt_eq_getElem (v : TenBytes) (j : Fin 10) : byteAt v j.val = v[j] := by
  simp [byteAt, Vector.getD]

/-- The host's turn with a bus access that is no violation: the step is the access's effect (60_exceptions R210). -/
theorem step_of_access {s t : State} {a : Access} {prog : List HostStmt} {rest : List Turn} (hm : s.hpv = false)
    (hs : s.schedule = .host :: rest) (hp : s.hostProgram = .access a :: prog)
    (ha : busAccess a { s with schedule := rest, hostProgram := prog } = .ok t) : step s = .next t := by
  rw [step_of_schedule hm hs]
  simp only [takeTurn, hostTurn, hp, accessOrMark, ha]

/-- A permitted read records the register's number for the host (70_reset R241). -/
theorem busAccess_read {o : Fin 64} {w : Nat} {r : HostReg} {d : Value} {s : State} (hr : hostRegAt o w = some r)
    (hd : hostRead r s = .ok d) : busAccess (.read o w) s = .ok (recordRead o w d s) := by
  simp [busAccess, hr, hd, Except.map]

/-- A result register is read while DONE = 1 (10_state R30). -/
theorem readResult_of_done {s : State} (h : done s = true) (d : Value) : readResult d s = .ok d := by
  simp [readResult, h]

end Sys2Proof.Machine

open Sys2Proof Sys2Proof.Machine

/-- Settles O35: the access at offset 0x08 is the write to ARG. -/
theorem argWriteStoresTheOperand : Obligations.ArgWriteStoresTheOperand := by
  intro s v prog rest hm hs hp hb
  refine step_of_access hm hs hp ?_
  have hb' : busy { s with schedule := rest, hostProgram := prog } = false := hb
  have hr : hostRegAt 0x08 8 = some .arg := by decide
  simp [busAccess, hr, hostWrite, hb']

/-- Settles O36, register by register. -/
theorem readsReturnTheRegister : Obligations.ReadsReturnTheRegister := by
  intro s o w prog rest hm hs hp d hd
  have hstep : ∀ r, hostRegAt o w = some r → hostRead r { s with schedule := rest, hostProgram := prog } = .ok d →
      step s = .next { s with hostProgram := prog, schedule := rest, hostReads := ⟨o, w, d⟩ :: s.hostReads } :=
    fun r hr hv => step_of_access hm hs hp (busAccess_read hr hv)
  rcases hd with ⟨rfl, rfl, ha⟩ | ⟨rfl, rfl, rfl⟩ | ⟨hd, ⟨rfl, rfl, rfl⟩ | ⟨rfl, rfl, rfl⟩ | ⟨j, ho, rfl, rfl⟩⟩
  · exact hstep .arg (by decide) (by simp [hostRead, ha])
  · exact hstep .status (by decide) rfl
  · exact hstep .resValue (by decide) (readResult_of_done hd _)
  · exact hstep .resLen (by decide) (readResult_of_done hd _)
  · exact hstep (.frame j) (hostRegAt_frame ho) (byteAt_eq_getElem s.frame j ▸ readResult_of_done hd _)
end

section
/-! SUPPORT. The bytes of a number on the bus, in either byte order (20_memory R54). -/

namespace Sys2Proof.Machine

@[simp] theorem length_busLanes (o : Config.ByteOrder) (width v : Nat) : (busLanes o width v).length = width := by
  cases o <;> simp [busLanes]

/-- The host undoes the order in which the bus presents the bytes, so either order composes to BEval (20_memory R54). -/
@[simp] theorem busNumber_busLanes (o : Config.ByteOrder) (width v : Nat) :
    busNumber o (busLanes o width v) = beVal (beBytes width v) := by
  cases o with
  | littleEndian => simp only [busLanes, busNumber, List.reverse_reverse]
  | bigEndian => rfl

end Sys2Proof.Machine

open Sys2Proof Sys2Proof.Machine

/-- Settles O41: the value of the open byte order plays no part, and BE_width holds every number below 2^(8 * width). -/
theorem busByteOrderKeepsTheNumber : Obligations.BusByteOrderKeepsTheNumber := fun width v hv =>
  ⟨length_busLanes _ width v, (busNumber_busLanes _ width v).trans (beVal_beBytes_of_lt hv)⟩
end

section
/-! SUPPORT. The bytes of a frame: the leading bytes 0xFF of its run, the byte that ends the run, and the tail
(30_encoding R77 to R80). -/

namespace Sys2Proof.Machine

/-! Byte sequences. -/

/-- The high and the low bytes of a number (00_scope R14). -/
theorem beBytes_add (m n x : Nat) {y : Nat} (hy : y < 2 ^ (8 * n)) :
    beBytes (m + n) (x * 2 ^ (8 * n) + y) = beBytes m x ++ beBytes n y := by
  induction m with
  | zero => simp [beBytes, beBytes_add_mul]
  | succ m ih =>
    have hdiv : (x * 2 ^ (8 * n) + y) / 2 ^ (8 * (m + n)) = x / 2 ^ (8 * m) := by
      rw [show 8 * (m + n) = 8 * n + 8 * m by ring, Nat.pow_add, ← Nat.div_div_eq_div_mul, Nat.mul_comm x,
        Nat.mul_add_div (by positivity), Nat.div_eq_of_lt hy, Nat.add_zero]
    rw [Nat.add_right_comm, beBytes, hdiv, ih, beBytes, List.cons_append]

/-- The first byte takes in what of v overlaps it. -/
theorem beBytes_succ_mul_add (m x v : Nat) :
    beBytes (m + 1) (x * 2 ^ (8 * m) + v) = BitVec.ofNat 8 (x + v / 2 ^ (8 * m)) :: beBytes m v := by
  rw [beBytes, beBytes_add_mul, Nat.mul_comm, Nat.mul_add_div (by positivity)]

/-- A run of ones over whole bytes. -/
theorem beBytes_two_pow_sub_one (f : Nat) : beBytes f (2 ^ (8 * f) - 1) = List.replicate f 0xFF#8 := by
  induction f with
  | zero => rfl
  | succ f ih =>
    have hpos := Nat.two_pow_pos (8 * f)
    have hsplit : 2 ^ (8 * (f + 1)) - 1 = 255 * 2 ^ (8 * f) + (2 ^ (8 * f) - 1) := by
      rw [Nat.mul_add, Nat.pow_add]
      omega
    have hdiv : (2 ^ (8 * f) - 1) / 2 ^ (8 * f) = 0 := Nat.div_eq_of_lt (Nat.sub_lt hpos Nat.one_pos)
    rw [hsplit, beBytes_succ_mul_add, hdiv, ih, List.replicate_succ]

/-! The parts of a frame. -/

/-- How many bytes follow the byte that ends the run of a frame of length t (43_decoder R165). -/
def tailLength (t : Nat) : Nat := t - t / 8 - 1

/-- The byte that ends the run of a frame: the last t mod 8 ones, the zero, and the top payload bits
(30_encoding R78). -/
def headByte (t v : Nat) : Byte := BitVec.ofNat 8 (2 ^ 8 - 2 ^ (8 - t % 8) + v / 2 ^ (8 * tailLength t))

theorem length_eq_run_add_tail {t : Nat} (ht : 1 ≤ t) : t = t / 8 + (tailLength t + 1) := by
  unfold tailLength
  omega

/-- The run of k ones in its last byte ends at or above that byte's top bit. -/
theorem two_pow_eight_sub : ∀ k < 8, 2 ^ (8 - k) = 2 * 2 ^ (7 - k) ∧ 2 ^ (7 - k) ≤ 128 := by decide

/-- The bits under the run are those under the ones of the byte that ends it. -/
theorem two_pow_seven_mul {t : Nat} (ht : 1 ≤ t) : 2 ^ (7 * t) = 2 ^ (8 - t % 8) * 2 ^ (8 * tailLength t) := by
  rw [← Nat.pow_add]
  congr 1
  unfold tailLength
  omega

section Fits
variable {t v : Nat} (ht : 1 ≤ t) (hv : v < 2 ^ (7 * t - 1))
include ht hv

theorem lt_two_pow_seven_mul : v < 2 ^ (7 * t) :=
  hv.trans_le (Nat.pow_le_pow_right (by omega) (by omega))

/-- What the payload leaves for the byte that ends the run fits under its zero bit (30_encoding R78). -/
theorem div_tail_lt : v / 2 ^ (8 * tailLength t) < 2 ^ (7 - t % 8) := by
  rw [Nat.div_lt_iff_lt_mul (by positivity), ← Nat.pow_add]
  exact hv.trans_eq (congrArg _ (by unfold tailLength; omega))

theorem toNat_headByte : (headByte t v).toNat = 0x100 - 2 ^ (8 - t % 8) + v / 2 ^ (8 * tailLength t) := by
  obtain ⟨hpow, hle⟩ := two_pow_eight_sub (t % 8) (by omega)
  have hlt := div_tail_lt ht hv
  refine (BitVec.toNat_ofNat _ 8).trans (Nat.mod_eq_of_lt ?_)
  omega

/-- The byte that ends the run has t mod 8 leading ones and the top payload bits under them (30_encoding R80). -/
theorem clo8_headByte : clo8 (headByte t v) = t % 8 ∧
    (headBits (headByte t v) (t % 8)).toNat = v / 2 ^ (8 * tailLength t) := by
  obtain ⟨hpow, hle⟩ := two_pow_eight_sub (t % 8) (by omega)
  have hlt := div_tail_lt ht hv
  have hb := toNat_headByte ht hv
  obtain ⟨hclo, hbits⟩ := clo8_of_range ⟨t % 8, by omega⟩ (headByte t v) (by rw [hb]; exact Nat.le_add_right _ _)
    (by rw [hb]; dsimp only; omega)
  have hbits' : (headBits (headByte t v) (t % 8)).toNat = (headByte t v).toNat - (0x100 - 2 ^ (8 - t % 8)) := hbits
  exact ⟨hclo, by rw [hbits', hb, Nat.add_sub_cancel_left]⟩

theorem headByte_ne_ff : headByte t v ≠ 0xFF#8 := by
  intro h
  have hclo := (clo8_headByte ht hv).1
  rw [h, show clo8 0xFF#8 = 8 by decide] at hclo
  omega

/-- The frame's integer, cut before the byte that ends the run (30_encoding R77). -/
theorem frameInt_eq_parts : frameInt t v =
    (2 ^ (8 * (t / 8)) - 1) * 2 ^ (8 * (tailLength t + 1)) +
      ((2 ^ 8 - 2 ^ (8 - t % 8)) * 2 ^ (8 * tailLength t) + v) := by
  have hv' := lt_two_pow_seven_mul ht hv
  have hrun : 2 ^ t * 2 ^ (7 * t) = 2 ^ (8 * (t / 8)) * 2 ^ (8 * (tailLength t + 1)) := by
    rw [← Nat.pow_add, ← Nat.pow_add]
    congr 1
    unfold tailLength
    omega
  have hbyte : 2 ^ (8 * (tailLength t + 1)) = 2 ^ 8 * 2 ^ (8 * tailLength t) := by
    rw [← Nat.pow_add]
    congr 1
    omega
  have hle : 2 ^ (8 * (tailLength t + 1)) ≤ 2 ^ t * 2 ^ (7 * t) := hrun ▸ Nat.le_mul_of_pos_left _ (by positivity)
  have hle' : 2 ^ (7 * t) ≤ 2 ^ (8 * (tailLength t + 1)) :=
    (two_pow_seven_mul ht).trans_le
      (hbyte ▸ Nat.mul_le_mul_right _ (Nat.pow_le_pow_right (by omega) (Nat.sub_le 8 _)))
  rw [frameInt_eq hv', Nat.sub_mul, Nat.sub_mul, Nat.sub_mul, ← two_pow_seven_mul ht, ← hbyte, ← hrun]
  omega

/-- The byte that ends the run and the tail, as a number. -/
theorem head_and_tail_lt :
    (2 ^ 8 - 2 ^ (8 - t % 8)) * 2 ^ (8 * tailLength t) + v < 2 ^ (8 * (tailLength t + 1)) := by
  have hv' := lt_two_pow_seven_mul ht hv
  have hle : 2 ^ (8 - t % 8) ≤ 2 ^ 8 := Nat.pow_le_pow_right (by omega) (Nat.sub_le 8 _)
  calc (2 ^ 8 - 2 ^ (8 - t % 8)) * 2 ^ (8 * tailLength t) + v
      < (2 ^ 8 - 2 ^ (8 - t % 8)) * 2 ^ (8 * tailLength t) + 2 ^ (8 - t % 8) * 2 ^ (8 * tailLength t) :=
        Nat.add_lt_add_left (hv'.trans_eq (two_pow_seven_mul ht)) _
    _ = 2 ^ (8 * (tailLength t + 1)) := by
        rw [← Nat.add_mul, Nat.sub_add_cancel hle, ← Nat.pow_add, Nat.mul_succ, Nat.add_comm]

/-- A frame's integer is a number of its T bytes (30_encoding R77). -/
theorem frameInt_lt : frameInt t v < 2 ^ (8 * t) := by
  have hv' := lt_two_pow_seven_mul ht hv
  calc frameInt t v < (2 ^ t - 1) * 2 ^ (7 * t) + 2 ^ (7 * t) := by
        rw [frameInt_eq hv']
        omega
    _ = 2 ^ (8 * t) := by
        rw [← Nat.succ_mul, Nat.succ_eq_add_one, Nat.sub_add_cancel Nat.one_le_two_pow, ← Nat.pow_add]
        congr 1
        omega

theorem beVal_frameBytes : beVal (frameBytes t v) = frameInt t v := beVal_beBytes_of_lt (frameInt_lt ht hv)

/-- A frame's integer over its payload bits: T ones, a zero and the value (30_encoding R77). -/
theorem frameInt_eq_mul_add : frameInt t v = 2 ^ (7 * t - 1) * (2 * (2 ^ t - 1)) + v := by
  have hpow : 2 ^ (7 * t) = 2 ^ (7 * t - 1) * 2 := by
    rw [← Nat.pow_succ]
    congr 1
    omega
  rw [frameInt_eq (by omega), hpow]
  ring

theorem frameInt_mod : frameInt t v % 2 ^ (7 * t - 1) = v := by
  rw [frameInt_eq_mul_add ht hv, Nat.mul_add_mod, Nat.mod_eq_of_lt hv]

theorem frameInt_div : frameInt t v / 2 ^ (7 * t) = 2 ^ t - 1 := by
  have hv' := lt_two_pow_seven_mul ht hv
  rw [frameInt_eq hv', Nat.mul_comm, Nat.mul_add_div (by positivity), Nat.div_eq_of_lt hv', Nat.add_zero]

/-- The zero bit that ends the run. -/
theorem testBit_frameInt_terminator : (frameInt t v).testBit (7 * t - 1) = false := by
  rw [frameInt_eq_mul_add ht hv, Nat.testBit_two_pow_mul_add _ hv]
  simp

/-- The bytes of a frame, part by part (30_encoding R77, R78). -/
theorem frameBytes_eq_parts : frameBytes t v =
    List.replicate (t / 8) 0xFF#8 ++ headByte t v :: beBytes (tailLength t) v :=
  calc frameBytes t v = beBytes (t / 8 + (tailLength t + 1)) (frameInt t v) := by
        rw [← length_eq_run_add_tail ht, frameBytes]
    _ = _ := by
        rw [frameInt_eq_parts ht hv, beBytes_add _ _ _ (head_and_tail_lt ht hv), beBytes_two_pow_sub_one,
          beBytes_succ_mul_add, headByte]

end Fits

/-! The run gives the length. -/

/-- The length of a frame as its first bytes give it: eight for each leading 0xFF, and the leading ones of the byte
that ends the run (30_encoding R79). -/
def runLength : List Byte → Nat
  | [] => 0
  | b :: bs => if b = 0xFF#8 then 8 + runLength bs else clo8 b

theorem runLength_replicate_append (f : Nat) (bs : List Byte) :
    runLength (List.replicate f 0xFF#8 ++ bs) = 8 * f + runLength bs := by
  induction f with
  | zero => simp
  | succ f ih =>
    rw [List.replicate_succ, List.cons_append, runLength, if_pos rfl, ih]
    omega

/-- A frame's own bytes give its length, whatever follows them (30_encoding R79, R83). -/
theorem runLength_frameBytes_append {t v : Nat} (ht : 1 ≤ t) (hv : v < 2 ^ (7 * t - 1)) (rest : List Byte) :
    runLength (frameBytes t v ++ rest) = t := by
  rw [frameBytes_eq_parts ht hv, List.append_assoc, runLength_replicate_append, List.cons_append, runLength,
    if_neg (headByte_ne_ff ht hv), (clo8_headByte ht hv).1, Nat.div_add_mod]

/-- A frame's bytes give its value (30_encoding R77). -/
theorem frameBytes_injective {t v w : Nat} (ht : 1 ≤ t) (hv : v < 2 ^ (7 * t - 1)) (hw : w < 2 ^ (7 * t - 1))
    (h : frameBytes t v = frameBytes t w) : v = w := by
  have hint : frameInt t v = frameInt t w := by rw [← beVal_frameBytes ht hv, h, beVal_frameBytes ht hw]
  rw [← frameInt_mod ht hv, hint, frameInt_mod ht hw]

end Sys2Proof.Machine

open Sys2Proof Sys2Proof.Machine

/-- Settles O14: the integer of a frame is read off its bytes, and its parts off the integer. -/
theorem frameIsRunTerminatorPayload : Obligations.FrameIsRunTerminatorPayload := by
  intro t v ht hv
  rw [beVal_frameBytes ht hv]
  exact ⟨length_frameBytes t v, rfl, frameInt_lt ht hv, frameInt_div ht hv, testBit_frameInt_terminator ht hv,
    frameInt_mod ht hv⟩

/-- Settles O17: both frames' lengths are read off the bytes they share, and so are their values. -/
theorem noFrameBeginsAnother : Obligations.NoFrameBeginsAnother := by
  rintro t u v w ht - hu - hv hw ⟨rest, hrest⟩
  have hlen : t = u := by
    rw [← runLength_frameBytes_append ht hv rest, hrest, ← List.append_nil (frameBytes u w),
      runLength_frameBytes_append hu hw]
  subst hlen
  obtain ⟨heq, -⟩ := List.append_inj (hrest.trans (List.append_nil _).symm) (by simp)
  exact ⟨rfl, frameBytes_injective ht hv hw heq⟩
end

section
/-! SUPPORT. A DECODE over ByteSourceOver by the empty schedule: the block's steps and the agent's answers in turn
(log 2), and what a run of them does with the bytes of one frame. -/

namespace Sys2Proof.Machine

/-! Runs. -/

/-- A run of at most n steps ends in a state of which P holds. -/
def reachesWithin (n : Nat) (s : State) (P : State → Prop) : Prop :=
  ∃ k u, k ≤ n ∧ Sys2Proof.core.run k s = .next u ∧ P u

theorem reachesWithin_of_now {n : Nat} {s : State} {P : State → Prop} (h : P s) : reachesWithin n s P :=
  ⟨0, s, Nat.zero_le n, rfl, h⟩

theorem run_succ_of_step {k : Nat} {s t : State} (h : step s = .next t) :
    Sys2Proof.core.run (k + 1) s = Sys2Proof.core.run k t := by
  have h' : Sys2Proof.core.step s = .next t := h
  simp only [Host.Core.run, h']

theorem reachesWithin_succ_of_step {n : Nat} {s t : State} {P : State → Prop} (h : step s = .next t)
    (ht : reachesWithin n t P) : reachesWithin (n + 1) s P := by
  obtain ⟨k, u, hk, hrun, hu⟩ := ht
  exact ⟨k + 1, u, Nat.succ_le_succ hk, (run_succ_of_step h).trans hrun, hu⟩

theorem reachesWithin_mono {m n : Nat} {s : State} {P : State → Prop} (hmn : m ≤ n) (h : reachesWithin m s P) :
    reachesWithin n s P := by
  obtain ⟨k, u, hk, hu⟩ := h
  exact ⟨k, u, hk.trans hmn, hu⟩

/-! The eager order of a DECODE. -/

/-- A DEC is latched, no request is outstanding, and a ByteSourceOver is connected; no turn is scheduled. -/
structure DecodesOver (a : SourceAgent) (s : State) : Prop where
  hpv : s.hpv = false
  schedule : s.schedule = []
  op : s.op = some 0x02#8
  status : s.status = statusAccepted
  source : s.source = some a
  kind : a.kind = .over

/-- The state of a request for n bytes that agent a has answered (42_bytesource R144, R150). -/
def answeredState (n : Nat) (p : Phase) (a : SourceAgent) (s : State) : State :=
  { s with reqN := n, resp := (overAnswer n a).1, phase := p, source := some (overAnswer n a).2 }

/-- The state whose request for n bytes has been answered and the answer taken, the agent now being b
(42_bytesource R145). -/
def takenState (n : Nat) (p : Phase) (b : SourceAgent) (s : State) : State :=
  { s with reqN := n, resp := .none, phase := p, source := some b }

section Eager
variable {a : SourceAgent} {s : State} (h : DecodesOver a s)
include h

theorem srcWait_of_decodesOver : srcWait s = false := by
  rw [srcWait_def, h.status, getLsbD_statusAccepted_three]

/-- Out of a request the block moves at once (43_decoder R161). -/
theorem step_of_decodesOver (hp : s.phase ≠ .idle) : step s = .next (decodeStep s) := by
  have hc : currentCommand s = some .dec := by
    rw [currentCommand, if_neg hp, h.op]
    rfl
  have ht : eagerTurn s = .block := by simp [eagerTurn, blockEnabled, hc, srcWait_of_decodesOver h]
  rw [step_of_nil h.hpv h.schedule, ht, takeTurn, blockTurn, hc]
  rfl

/-- An outstanding request is answered at once (42_bytesource R150). -/
theorem step_requestBytes (n : Nat) (p : Phase) : step (requestBytes n p s) = .next (answeredState n p a s) := by
  have hw : srcWait (requestBytes n p s) = true := getLsbD_withSrcWait_three s.status
  have ht : eagerTurn (requestBytes n p s) = .source .data := by
    simp [eagerTurn, blockEnabled, sourceEnabled, hw, h.source, h.kind]
  have hans : sourceAnswer .data n a = some (overAnswer n a) := by simp [sourceAnswer, h.kind]
  have hst : withoutSrcWait (withSrcWait s.status) = s.status := by
    rw [h.status, withoutSrcWait_withSrcWait_accepted]
  rw [step_of_nil (by exact h.hpv) (by exact h.schedule), ht, takeTurn, answerRequest, if_pos hw]
  simp only [requestBytes_source, h.source, requestBytes_reqN, Option.bind_some, hans]
  simp only [requestBytes, hst, answeredState]

end Eager

/-- ByteSourceOver of these bytes, at position p (42_bytesource R150). -/
abbrev overAt (bytes : List Byte) (p : Nat) : SourceAgent := ⟨bytes, p, false, .over⟩

section Serve
variable {bytes chunk rest : List Byte} {p : Nat} (hne : chunk ≠ []) (hdrop : bytes.drop p = chunk ++ rest)
include hne hdrop

/-- ByteSourceOver answers with the bytes at its position where it has them (42_bytesource R150). -/
theorem overAnswer_of_drop_eq :
    overAnswer chunk.length (overAt bytes p) = (.data chunk, overAt bytes (p + chunk.length)) := by
  have hlen : p + chunk.length ≤ bytes.length := by
    have hpos := List.length_pos_iff.mpr hne
    have := congrArg List.length hdrop
    simp only [List.length_drop, List.length_append] at this
    omega
  simp [overAnswer, dataAnswer, hlen, hdrop]

/-- A request the agent has the bytes for is answered and the answer taken in two steps (42_bytesource R144, R145). -/
theorem reachesWithin_requestBytes {n k : Nat} {ph : Phase} {e : ArchError} {g : List Byte → State → State} {s : State}
    {P : State → Prop} (h : DecodesOver (overAt bytes p) s) (hn : n = chunk.length) (hph : ph ≠ .idle)
    (hstep : ∀ u, u.phase = ph → u.reqN = n → decodeStep u = takeResponse n e g u)
    (hk : reachesWithin k (g chunk (takenState n ph (overAt bytes (p + n)) s)) P) :
    reachesWithin (k + 2) (requestBytes n ph s) P := by
  subst hn
  have hans := overAnswer_of_drop_eq hne hdrop
  have hagain : DecodesOver (overAt bytes (p + chunk.length)) (answeredState chunk.length ph (overAt bytes p) s) :=
    ⟨h.hpv, h.schedule, h.op, h.status, by simp [answeredState, hans], rfl⟩
  have htake : decodeStep (answeredState chunk.length ph (overAt bytes p) s) =
      g chunk (takenState chunk.length ph (overAt bytes (p + chunk.length)) s) := by
    have hw := srcWait_of_decodesOver hagain
    rw [hstep _ rfl rfl, takeResponse, hw]
    simp [answeredState, takenState, hans]
  exact reachesWithin_succ_of_step (step_requestBytes h _ _)
    (reachesWithin_succ_of_step (step_of_decodesOver hagain hph) (htake ▸ hk))

end Serve

section Byte
variable {b : Byte} {bytes rest : List Byte} {k p : Nat} {s : State} {P : State → Prop}
  (hdrop : bytes.drop p = b :: rest)
include hdrop

theorem drop_succ_of_drop_eq_cons : bytes.drop (p + 1) = rest := by
  rw [← List.drop_drop, hdrop, List.drop_one, List.tail_cons]

variable (h : DecodesOver (overAt bytes p) s)
include h

/-- Frame byte 0, requested, answered and taken (43_decoder R161). -/
theorem reachesWithin_byte0 (hk : reachesWithin k (onByte0 b (takenState 1 .decB0 (overAt bytes (p + 1)) s)) P) :
    reachesWithin (k + 2) (requestBytes 1 .decB0 s) P :=
  reachesWithin_requestBytes (chunk := [b]) (by simp) hdrop (e := .endOfInput)
    (g := fun bytes => onByte0 (byteOrZero bytes 0)) h rfl (by simp) (fun u hu _ => by rw [decodeStep, hu]) hk

/-- Frame byte 1, requested, answered and taken (43_decoder R161). -/
theorem reachesWithin_byte1 (hk : reachesWithin k (onByte1 b (takenState 1 .decB1 (overAt bytes (p + 1)) s)) P) :
    reachesWithin (k + 2) (requestBytes 1 .decB1 s) P :=
  reachesWithin_requestBytes (chunk := [b]) (by simp) hdrop (e := .truncatedFrame)
    (g := fun bytes => onByte1 (byteOrZero bytes 0)) h rfl (by simp) (fun u hu _ => by rw [decodeStep, hu]) hk

end Byte

/-! The end of a DECODE. -/

/-- A DECODE completes with the value it assembles, where that fits 64 bits (43_decoder R170, R172). -/
theorem completedWith_completeDecode {i v : Nat} {s : State} (ht : s.frameT ≤ 10) (hv : v < 2 ^ 64)
    (hval : assembleValue s.dbuf s.k s.frameT i = v) :
    completedWith (completeDecode i s) 0x00000002#32 v s.frameT (Vector.replicate 10 0#8) := by
  have hlen : (BitVec.ofNat 8 s.frameT).toNat = s.frameT := by
    rw [BitVec.toNat_ofNat]
    omega
  have hres : (BitVec.ofNat 64 (assembleValue s.dbuf s.k s.frameT i)).toNat = v := by
    rw [BitVec.toNat_ofNat, hval, Nat.mod_eq_of_lt hv]
  exact ⟨rfl, rfl, hres, hlen, tenBytes_nil⟩

/-- The tail is stored above the bytes read before it, and the value assembled from the byte that ended the run and the
tail (43_decoder R170). -/
theorem completedWith_onTail {b : Byte} {v : Nat} {tail : List Byte} {s : State}
    (hb : byteAt s.dbuf (s.nread - 1) = b) (hn : 1 ≤ s.nread) (hlen : s.nread + tail.length = s.frameT)
    (ht : s.frameT ≤ 10) (hv : v < 2 ^ 64)
    (hval : (headBits b s.k).toNat * 2 ^ (8 * tail.length) + beVal tail = v) :
    completedWith (onTail tail s) 0x00000002#32 v s.frameT (Vector.replicate 10 0#8) := by
  have hle : s.nread + tail.length ≤ 10 := hlen.trans_le ht
  have hb' : byteAt (storeBytes tail s.nread s.dbuf) (s.nread - 1) = b :=
    (byteAt_storeBytes_of_lt _ _ _ _ hle (Nat.sub_lt hn Nat.one_pos)).trans hb
  refine completedWith_completeDecode
    (s := { s with dbuf := storeBytes tail s.nread s.dbuf, nread := s.frameT }) ht hv ?_
  rw [assembleValue, hb', ← hlen, sliceBytes_storeBytes _ _ _ hle, Nat.add_sub_cancel_left, hval]

/-- The completion of a DECODE of a frame of length t holding v, with the agent then at a and the host as in s
(43_decoder R172). -/
def frameDecoded (t v : Nat) (a : SourceAgent) (s u : State) : Prop :=
  completedWith u 0x00000002#32 v t (Vector.replicate 10 0#8) ∧ u.source = some a ∧
    u.arg = s.arg ∧ u.hostProgram = s.hostProgram ∧ u.hostReads = s.hostReads

/-- From the byte that ends the run, the tail's bytes at the agent's position: the value and the length, in at most two
steps (43_decoder R165, R170). -/
theorem reachesWithin_onTerminatingByte {b : Byte} {v p : Nat} {bytes tail rest : List Byte} {s : State}
    (h : DecodesOver (overAt bytes p) s) (hdrop : bytes.drop p = tail ++ rest) (hn : 1 ≤ s.nread)
    (hb : byteAt s.dbuf (s.nread - 1) = b) (hlen : s.nread + tail.length = 8 * s.f + clo8 b)
    (ht : 8 * s.f + clo8 b ≤ 10) (hten : 8 * s.f + clo8 b = 10 → headBits b (clo8 b) = 0x00#8) (hv : v < 2 ^ 64)
    (hval : (headBits b (clo8 b)).toNat * 2 ^ (8 * tail.length) + beVal tail = v) :
    reachesWithin 2 (onTerminatingByte b s)
      (frameDecoded (8 * s.f + clo8 b) v (overAt bytes (p + tail.length)) s) := by
  have h' : DecodesOver (overAt bytes p) (terminated b s) := ⟨h.hpv, h.schedule, h.op, h.status, h.source, h.kind⟩
  rcases onTerminatingByte_cases b s with ⟨h0, _⟩ | ⟨h11, _⟩ | ⟨heq, hne, _⟩ | ⟨_, _, _, ⟨hlt, ho⟩ | ⟨hge, ho⟩⟩
  · omega
  · omega
  · exact absurd (hten heq) hne
  · have hn' : 8 * s.f + clo8 b - s.nread = tail.length := by omega
    have hne : tail ≠ [] := List.length_pos_iff.mp (by omega)
    rw [ho, hn']
    refine reachesWithin_requestBytes hne hdrop (k := 0) h' rfl (by simp) (e := .truncatedFrame) (g := onTail)
      (fun u hp hr => ?_) (reachesWithin_of_now ?_)
    · simp [decodeStep, hp, hr]
    · exact ⟨completedWith_onTail (s := takenState _ _ _ (terminated b s)) hb hn hlen ht hv hval, rfl, rfl, rfl, rfl⟩
  · have hnil : tail = [] := List.length_eq_zero_iff.mp (by omega)
    subst hnil
    rw [ho]
    refine reachesWithin_of_now ⟨completedWith_completeDecode (s := terminated b s) ht hv ?_, h.source, rfl, rfl, rfl⟩
    rw [assembleValue, hb, sliceBytes_of_le _ _ _ hge, Nat.sub_eq_zero_of_le hge]
    exact hval

/-! The bytes of one frame. -/

section Frame
variable {t v p : Nat} {bytes rest : List Byte} {s : State} (ht : 1 ≤ t) (ht10 : t ≤ 10) (hv : v < 2 ^ (7 * t - 1))
  (hv64 : v < 2 ^ 64)
include ht ht10 hv hv64

/-- From the byte that ends the frame's run, with its leading bytes 0xFF read. -/
theorem reachesWithin_headByte (h : DecodesOver (overAt bytes p) s)
    (hdrop : bytes.drop p = beBytes (tailLength t) v ++ rest) (hf : s.f = t / 8) (hn : s.nread = t / 8 + 1)
    (hb : byteAt s.dbuf (t / 8) = headByte t v) :
    reachesWithin 2 (onTerminatingByte (headByte t v) s) (frameDecoded t v (overAt bytes (p + tailLength t)) s) := by
  obtain ⟨hclo, hbits⟩ := clo8_headByte ht hv
  have hlen : 8 * s.f + clo8 (headByte t v) = t := by omega
  have hten : t = 10 → headBits (headByte t v) (t % 8) = 0x00#8 := by
    rintro rfl
    exact BitVec.eq_of_toNat_eq (hbits.trans (Nat.div_eq_of_lt hv64))
  have hval : (headBits (headByte t v) (t % 8)).toNat * 2 ^ (8 * (beBytes (tailLength t) v).length) +
      beVal (beBytes (tailLength t) v) = v := by
    rw [hbits, length_beBytes, beVal_beBytes, Nat.div_add_mod']
  have hmain := reachesWithin_onTerminatingByte (b := headByte t v) (v := v) h hdrop (by omega) (by simpa [hn] using hb)
    (by have := length_eq_run_add_tail ht; simp only [length_beBytes]; omega) (by omega) (by rwa [hlen, hclo]) hv64
    (by rwa [hclo])
  rwa [hlen, length_beBytes] at hmain

/-- The whole DECODE, from the step out of DEC_START (43_decoder R160, R161). -/
theorem reachesWithin_frame (h : DecodesOver (overAt bytes p) s) (hp : s.phase = .decStart)
    (hdrop : bytes.drop p = frameBytes t v ++ rest) :
    reachesWithin 7 s (frameDecoded t v (overAt bytes (p + t)) s) := by
  have hparts := length_eq_run_add_tail ht
  have hff := headByte_ne_ff ht hv
  have hstep : step s = .next (startDecode s) := by rw [step_of_decodesOver h (by simp [hp]), decodeStep, hp]
  have hstart : DecodesOver (overAt bytes p) { s with nread := 0, f := 0 } :=
    ⟨h.hpv, h.schedule, h.op, h.status, h.source, h.kind⟩
  rw [frameBytes_eq_parts ht hv] at hdrop
  refine reachesWithin_succ_of_step hstep ?_
  rcases (by omega : t / 8 = 0 ∨ t / 8 = 1) with hrun | hrun
  · have hp0 : p + 1 + tailLength t = p + t := by omega
    rw [hrun] at hdrop
    have hdrop1 := drop_succ_of_drop_eq_cons hdrop
    refine reachesWithin_mono (m := 4) (by omega) (reachesWithin_byte0 hdrop hstart ?_)
    rw [onByte0, if_neg hff, ← hp0]
    exact reachesWithin_headByte ht ht10 hv hv64 ⟨h.hpv, h.schedule, h.op, h.status, rfl, rfl⟩ hdrop1 hrun.symm
      (by rw [hrun]) (by rw [hrun]; exact byteAt_storeBytes_self _ _ (by omega))
  · have hp1 : p + 1 + 1 + tailLength t = p + t := by omega
    rw [hrun] at hdrop
    have hdrop1 := drop_succ_of_drop_eq_cons hdrop
    have hdrop2 := drop_succ_of_drop_eq_cons hdrop1
    refine reachesWithin_byte0 hdrop hstart ?_
    rw [onByte0, if_pos rfl, ← hp1]
    refine reachesWithin_byte1 hdrop1 ⟨h.hpv, h.schedule, h.op, h.status, rfl, rfl⟩ ?_
    rw [onByte1, if_neg hff]
    exact reachesWithin_headByte ht ht10 hv hv64 ⟨h.hpv, h.schedule, h.op, h.status, rfl, rfl⟩ hdrop2 hrun.symm
      (by rw [hrun]) (by rw [hrun]; exact byteAt_storeBytes_self _ _ (by omega))

end Frame

end Sys2Proof.Machine

open Sys2Proof Sys2Proof.Machine

/-- Settles O28: the run of the eager order over the frame at the agent's position. -/
theorem decodeReturnsEveryFrame : Obligations.DecodeReturnsEveryFrame := by
  intro s t v before after ht ht10 hv hv64 hm hs hp ho hst hsrc
  exact reachesWithin_frame ht ht10 hv hv64 ⟨hm, hs, ho, hst, hsrc, rfl⟩ hp
    (by rw [List.append_assoc, List.drop_left])
end

section
/-! SUPPORT. The command words: each byte is one command's, and each command's byte decodes to it (30_encoding R70 to
R75). -/

namespace Sys2Proof.Machine

/-- The reserved opcodes are those the opcode map does not assign (30_encoding R72, R73). -/
theorem isReservedOpcode_iff (c : Byte) :
    isReservedOpcode c = true ↔ c ≠ 0x01#8 ∧ c ≠ 0x02#8 ∧ c ≠ 0x03#8 ∧ c ≠ 0x04#8 := by
  simp only [isReservedOpcode, Bool.or_eq_true, beq_iff_eq, decide_eq_true_eq, ne_eq, ← BitVec.toNat_inj,
    BitVec.toNat_ofNat]
  omega

/-- The opcode map, row by row (30_encoding R72, R73). -/
theorem decodeOpcode_cases (c : Byte) :
    (c = 0x01#8 ∧ decodeOpcode c = .enc) ∨ (c = 0x02#8 ∧ decodeOpcode c = .dec) ∨
      (c = 0x03#8 ∧ decodeOpcode c = .mfb) ∨ (c = 0x04#8 ∧ decodeOpcode c = .pcb) ∨
      (isReservedOpcode c = true ∧ decodeOpcode c = .reserved c) := by
  unfold decodeOpcode
  split
  · exact .inl ⟨‹_›, rfl⟩
  split
  · exact .inr (.inl ⟨‹_›, rfl⟩)
  split
  · exact .inr (.inr (.inl ⟨‹_›, rfl⟩))
  split
  · exact .inr (.inr (.inr (.inl ⟨‹_›, rfl⟩)))
  · exact .inr (.inr (.inr (.inr ⟨(isReservedOpcode_iff c).mpr ⟨‹_›, ‹_›, ‹_›, ‹_›⟩, rfl⟩)))

/-- A well-formed command's opcode decodes to it (30_encoding R72, R73). -/
theorem decodeOpcode_opcodeOf {i : Instr} (h : i.wellFormed = true) : decodeOpcode (opcodeOf i) = i := by
  cases i with
  | enc => rfl
  | dec => rfl
  | mfb => rfl
  | pcb => rfl
  | reserved c =>
    obtain ⟨h1, h2, h3, h4⟩ := (isReservedOpcode_iff c).mp h
    simp [opcodeOf, decodeOpcode, h1, h2, h3, h4]

/-- Every opcode decodes to a well-formed command, whose opcode it is (30_encoding R72, R73). -/
theorem wellFormed_decodeOpcode (c : Byte) :
    (decodeOpcode c).wellFormed = true ∧ opcodeOf (decodeOpcode c) = c := by
  rcases decodeOpcode_cases c with ⟨rfl, h⟩ | ⟨rfl, h⟩ | ⟨rfl, h⟩ | ⟨rfl, h⟩ | ⟨hc, h⟩ <;> rw [h]
  · exact ⟨rfl, rfl⟩
  · exact ⟨rfl, rfl⟩
  · exact ⟨rfl, rfl⟩
  · exact ⟨rfl, rfl⟩
  · exact ⟨hc, rfl⟩

end Sys2Proof.Machine

open Sys2Proof Sys2Proof.Machine

/-- Settles O2: a command is its opcode. -/
theorem commandDecodesBackFromItsEncoding : Obligations.CommandDecodesBackFromItsEncoding := by
  intro i rest h
  rw [encode, List.singleton_append, decode, decodeOpcode_opcodeOf h]

/-- Settles O1, row by row of the opcode map. -/
theorem opcodeMapIsWhole : Obligations.OpcodeMapIsWhole := by
  intro c rest
  refine ⟨rfl, ?_⟩
  rcases decodeOpcode_cases c with ⟨rfl, h⟩ | ⟨rfl, h⟩ | ⟨rfl, h⟩ | ⟨rfl, h⟩ | ⟨hc, h⟩
  · simp [h, readsArg]
  · simp [h, readsArg]
  · simp [h, readsArg]
  · simp [h, readsArg]
  · obtain ⟨h1, h2, h3, h4⟩ := (isReservedOpcode_iff c).mp hc
    simp [h, readsArg, h1, h2, h3, h4]

/-- Settles O3: the command is the one the byte decodes to. -/
theorem everyByteIsAWellFormedCommand : Obligations.EveryByteIsAWellFormedCommand := by
  intro c rest
  obtain ⟨hwf, hop⟩ := wellFormed_decodeOpcode c
  exact ⟨decodeOpcode c, rfl, hwf, by rw [encode, hop]⟩
end

section
/-! SUPPORT. The encoder's length: the least that holds the value (41_encoder R122 to R126). -/

namespace Sys2Proof.Machine

/-- sigBits is the least bit count that holds the value (40_bitframemath R100). -/
theorem sigBits_le_iff (v : Value) (n : Nat) : sigBits v ≤ n ↔ v.toNat < 2 ^ n := by
  unfold sigBits
  split
  · rename_i h
    simp [h]
  · rename_i h
    rw [Nat.succ_le_iff, Nat.log2_lt h]

/-- A candidate length that does not collide is kept (41_encoder R122). -/
theorem growLength_of_not_collision {fuel t s : Nat} (h : collision t s = false) : growLength fuel t s = t := by
  cases fuel with
  | zero => rfl
  | succ fuel => simp [growLength, h]

/-- The candidate length never collides (41_encoder R124). -/
theorem collision_minimalFrameBytes (n : Nat) : collision (minimalFrameBytes n) n = false := by
  refine decide_eq_false ?_
  unfold minimalFrameBytes
  omega

/-- The encoder's length in closed form (41_encoder R124). -/
theorem encodeLength_eq (v : Value) : encodeLength v = sigBits v / 7 + 1 :=
  growLength_of_not_collision (collision_minimalFrameBytes (sigBits v))

/-- A frame holds a value exactly if it is no shorter than the encoder's (41_encoder R126). -/
theorem encodeLength_le_iff (v : Value) {t : Nat} (ht : 1 ≤ t) : encodeLength v ≤ t ↔ v.toNat < 2 ^ (7 * t - 1) := by
  rw [encodeLength_eq, ← sigBits_le_iff]
  omega

end Sys2Proof.Machine

open Sys2Proof Sys2Proof.Machine

/-- Settles O15: the lengths that hold the value are those from the encoder's on. -/
theorem encodeIsMinimal : Obligations.EncodeIsMinimal := by
  intro v
  have hpos : 1 ≤ encodeLength v := by rw [encodeLength_eq]; omega
  exact ⟨(encodeLength_le_iff v hpos).mp le_rfl, fun t ht => (encodeLength_le_iff v ht).mpr⟩
end

section
/-! SUPPORT. The statements of a host program (30_encoding R84), and a command that finds no operand (R75). -/

namespace Sys2Proof.Machine

/-- A command that reads ARG and finds no operand latched is violation 6 (60_exceptions R211). -/
theorem oneStep_withOperand_of_none {operation : Value → State → State} {s : State} (hp : s.phase = .exec)
    (ho : s.opnd = none) : oneStep (withOperand operation) s = .next (markViolation .argHoldsNoValue s) := by
  simp only [oneStep, hp, if_true, withOperand, ho]

/-- The host's turn executes its next statement (30_encoding R84). -/
theorem step_of_host {s : State} {rest : List Turn} (hm : s.hpv = false) (hs : s.schedule = .host :: rest) :
    step s = .next (hostTurn { s with schedule := rest }) :=
  step_of_schedule hm hs

/-- WAIT records its read of STATUS, and its statement is used up where DONE = 1 (30_encoding R84). -/
theorem waitStatus_eq (rest : List HostStmt) (s : State) :
    waitStatus rest s = { recordRead 0x10 4 (s.status.setWidth 64) s with
      hostProgram := if done s then rest else s.hostProgram } := by
  unfold waitStatus
  cases done s with
  | true => rfl
  | false => rfl

end Sys2Proof.Machine

open Sys2Proof Sys2Proof.Machine

/-- Settles O38, for each command that reads ARG. -/
theorem operandlessCommandIsMarked : Obligations.OperandlessCommandIsMarked := by
  intro i s hi hp ho
  cases i with
  | enc => exact oneStep_withOperand_of_none hp ho
  | mfb => exact oneStep_withOperand_of_none hp ho
  | pcb => exact oneStep_withOperand_of_none hp ho
  | dec => cases hi
  | reserved c => cases hi

/-- Settles O39: SRC connects its agent, and RESET is the event of the platform's turn. -/
theorem srcAndResetStatements : Obligations.SrcAndResetStatements := by
  intro s prog rest hm hs
  refine ⟨fun bytes hp => ?_, fun hp => ?_⟩
  · simp only [step_of_host hm hs, hostTurn, hp, connectSource]
  · have hplatform : step { s with hostProgram := prog, schedule := .reset :: rest } =
        takeTurn .reset { s with hostProgram := prog, schedule := rest } := step_of_schedule hm rfl
    simp only [hplatform, step_of_host hm hs, hostTurn, hp, takeTurn]

/-- Settles O40, by what the read of STATUS does. -/
theorem waitReadsStatusUntilDone : Obligations.WaitReadsStatusUntilDone := by
  intro s prog rest hm hs hp
  simp only [step_of_host hm hs, hostTurn, hp, waitStatus_eq]
  rfl
end

section
/-! SUPPORT. BitFrameMath: the capacity functions are two sides of one order (40_bitframemath R100 to R105), and what
a command that reads ARG does with its operand (30_encoding R74, R75). -/

namespace Sys2Proof.Machine

/-! Bit counts and capacities. -/

/-- sigBits of a value other than 0 (40_bitframemath R100). -/
theorem sigBits_of_ne_zero {v : Value} (h : v ≠ 0#64) : sigBits v = Nat.log2 v.toNat + 1 :=
  if_neg fun hv => h (BitVec.eq_of_toNat_eq hv)

theorem minimalFrameBytes_pos (n : Nat) : 1 ≤ minimalFrameBytes n := Nat.succ_pos (n / 7)

/-- A frame length is at least minimalFrameBytes of the bits it has room for, and of no more (40_bitframemath R102). -/
theorem minimalFrameBytes_le_iff {n t : Nat} (ht : 1 ≤ t) : minimalFrameBytes n ≤ t ↔ n ≤ payloadCapacityBits t := by
  unfold minimalFrameBytes payloadCapacityBits
  omega

/-- The shortest frame has room for the bits it was chosen for (40_bitframemath R105). -/
theorem le_payloadCapacityBits_minimalFrameBytes (n : Nat) : n ≤ payloadCapacityBits (minimalFrameBytes n) :=
  (minimalFrameBytes_le_iff (minimalFrameBytes_pos n)).mp le_rfl

/-- A frame filled to its capacity needs its whole length (40_bitframemath R105). -/
theorem minimalFrameBytes_payloadCapacityBits {t : Nat} (ht : 1 ≤ t) :
    minimalFrameBytes (payloadCapacityBits t) = t := by
  unfold minimalFrameBytes payloadCapacityBits
  omega

/-! Commands that read ARG. -/

/-- A command that reads ARG runs its operation on the latched operand (30_encoding R74). -/
theorem oneStep_withOperand_of_some {operation : Value → State → State} {s : State} {v : Value} (hp : s.phase = .exec)
    (ho : s.opnd = some v) : oneStep (withOperand operation) s = .next (operation v s) := by
  simp only [oneStep, hp, if_true, withOperand, ho]

/-- A command that reads ARG is not accepted while ARG holds no value (30_encoding R75). -/
theorem acceptCommand_of_arg_none {c : Byte} {s : State} (hb : busy s = false) (hc : readsArg (decodeOpcode c) = true)
    (ha : s.arg = none) : acceptCommand c s = .error .argHoldsNoValue := by
  simp [acceptCommand, hb, hc, ha]

/-- MFB answers the least length of a frame for its operand (40_bitframemath R106). -/
theorem minFrameBytesOp_of_le {n : Value} {s : State} (h : n.toNat ≤ 64) :
    minFrameBytesOp n s = complete (BitVec.ofNat 64 (minimalFrameBytes n.toNat))
      (BitVec.ofNat 8 (minimalFrameBytes n.toNat)) (tenBytes []) s :=
  if_neg (not_lt.mpr h)

/-- MFB has no answer for more bits than a value has (40_bitframemath R106). -/
theorem minFrameBytesOp_of_lt {n : Value} {s : State} (h : 64 < n.toNat) :
    minFrameBytesOp n s = raiseError .valueOutOfRange s :=
  if_pos h

/-- PCB answers the capacity of a frame of its operand's length (40_bitframemath R107). -/
theorem payloadCapacityOp_of_in_range {t : Value} {s : State} (h : 1 ≤ t.toNat ∧ t.toNat ≤ 10) :
    payloadCapacityOp t s = complete (BitVec.ofNat 64 (payloadCapacityBits t.toNat)) 0#8 (tenBytes []) s :=
  if_neg (not_or.mpr ⟨not_lt.mpr h.1, not_lt.mpr h.2⟩)

/-- PCB has no answer for a length that no frame has (40_bitframemath R107). -/
theorem payloadCapacityOp_of_out_of_range {t : Value} {s : State} (h : ¬(1 ≤ t.toNat ∧ t.toNat ≤ 10)) :
    payloadCapacityOp t s = raiseError .valueOutOfRange s :=
  if_pos ((not_and_or.mp h).imp not_le.mp not_le.mp)

end Sys2Proof.Machine

open Sys2Proof Sys2Proof.Machine

/-- Settles O7: the bounds are one equivalence, read in both directions. -/
theorem sigBitsIsTheLeastBitCount : Obligations.SigBitsIsTheLeastBitCount := by
  intro v
  have hzero : v = 0#64 → sigBits v = 0 := by rintro rfl; rfl
  exact ⟨hzero, sigBits_of_ne_zero, (sigBits_le_iff v _).mp le_rfl, fun n => (sigBits_le_iff v n).mpr, sigBits_le v⟩

/-- Settles O8: the lengths with room for n bits are those from minimalFrameBytes n on. -/
theorem minimalFrameBytesIsSmallest : Obligations.MinimalFrameBytesIsSmallest := by
  intro n hn
  have hten : n ≤ payloadCapacityBits 10 := hn.trans (by decide)
  exact ⟨rfl, minimalFrameBytes_pos n, (minimalFrameBytes_le_iff (by decide)).mpr hten,
    le_payloadCapacityBits_minimalFrameBytes n, fun t ht => (minimalFrameBytes_le_iff ht).mpr, rfl⟩

/-- Settles O9: a frame one byte shorter than the shortest is too short. -/
theorem bitFrameMathLawsHold : Obligations.BitFrameMathLawsHold := by
  refine ⟨fun t ht _ => minimalFrameBytes_payloadCapacityBits ht,
    fun n _ => ⟨le_payloadCapacityBits_minimalFrameBytes n, fun h => ?_⟩,
    fun v => le_payloadCapacityBits_minimalFrameBytes (sigBits v)⟩
  have hshorter : ¬ minimalFrameBytes n ≤ minimalFrameBytes n - 1 := by omega
  exact not_le.mp (mt (minimalFrameBytes_le_iff (Nat.le_sub_one_of_lt h)).mpr hshorter)

/-- Settles O10: an operand above 64 is out of range. -/
theorem mfbComputesMinimalFrameBytes : Obligations.MfbComputesMinimalFrameBytes := by
  refine ⟨fun s n hp ho => (oneStep_withOperand_of_some hp ho).trans (congrArg _ ?_),
    fun s hb ha => acceptCommand_of_arg_none hb rfl ha, rfl⟩
  by_cases hn : n.toNat ≤ 64
  · rw [minFrameBytesOp_of_le hn, if_pos hn]
    rfl
  · rw [minFrameBytesOp_of_lt (not_le.mp hn), if_neg hn]
    rfl

/-- Settles O11: an operand of 0 or above 10 is out of range. -/
theorem pcbComputesPayloadCapacity : Obligations.PcbComputesPayloadCapacity := by
  refine ⟨fun s t hp ho => (oneStep_withOperand_of_some hp ho).trans (congrArg _ ?_),
    fun s hb ha => acceptCommand_of_arg_none hb rfl ha, rfl⟩
  by_cases ht : 1 ≤ t.toNat ∧ t.toNat ≤ 10
  · rw [payloadCapacityOp_of_in_range ht, if_pos ht]
    rfl
  · rw [payloadCapacityOp_of_out_of_range ht, if_neg ht]
    rfl
end

section
/-! SUPPORT. The encoder's frame by its length (41_encoder R124, R127), and what a one-step operation leaves unchanged
(60_exceptions R213). -/

namespace Sys2Proof.Machine

/-! The encoder's length and frame. -/

theorem encodeLength_pos (v : Value) : 1 ≤ encodeLength v := by
  rw [encodeLength_eq]
  omega

@[simp] theorem length_encodeFrame (v : Value) : (encodeFrame v).length = encodeLength v := length_frameBytes _ _

/-- The values of a frame length are those it holds and the length before it does not (41_encoder R127). -/
theorem encodeLength_eq_iff (v : Value) {t : Nat} (ht : 1 ≤ t) :
    encodeLength v = t ↔ (t = 1 ∨ 2 ^ (7 * (t - 1) - 1) ≤ v.toNat) ∧ v.toNat < 2 ^ (7 * t - 1) := by
  have hpos := encodeLength_pos v
  rw [← encodeLength_le_iff v ht]
  rcases ht.eq_or_lt with rfl | ht
  · omega
  · rw [← not_lt, ← encodeLength_le_iff v (Nat.le_sub_one_of_lt ht)]
    omega

/-- The encoder's frame, part by part: the whole bytes of the run, the byte that ends it, and the tail
(30_encoding R78). -/
theorem encodeFrame_eq_parts {v : Value} {t : Nat} (h : encodeLength v = t) :
    encodeFrame v = List.replicate (t / 8) 0xFF#8 ++ headByte t v.toNat :: beBytes (tailLength t) v.toNat := by
  subst h
  have hpos := encodeLength_pos v
  exact frameBytes_eq_parts hpos ((encodeLength_le_iff v hpos).mp le_rfl)

/-- A value that fits the tail leaves no payload bit to the byte that ends the run (41_encoder R127, T = 7 and 10). -/
theorem headByte_of_lt {t v : Nat} (h : v < 2 ^ (8 * tailLength t)) :
    headByte t v = BitVec.ofNat 8 (2 ^ 8 - 2 ^ (8 - t % 8)) := by
  rw [headByte, Nat.div_eq_of_lt h, Nat.add_zero]

/-- A frame of at most 6 bytes has its whole run in byte 0, over payload bits (41_encoder R127). -/
theorem encodeFrame_of_le_six {v : Value} {t : Nat} (ht : t ≤ 6) (h : encodeLength v = t) :
    encodeFrame v = BitVec.ofNat 8 (0x100 - 2 ^ (8 - t) + v.toNat / 2 ^ (8 * (t - 1))) :: beBytes (t - 1) v.toNat := by
  have hrun : t / 8 = 0 := Nat.div_eq_of_lt (by omega)
  have htail : tailLength t = t - 1 := by rw [tailLength, hrun, Nat.sub_zero]
  rw [encodeFrame_eq_parts h, hrun, headByte, htail, Nat.mod_eq_of_lt (by omega)]
  rfl

/-! The one-step operations. -/

/-- A completion, even one that used the encoder's buffer, writes nothing outside the operation and nothing of the
decoder's staging state (60_exceptions R202, R203, R213). -/
theorem keepsOutside_and_keepsDecoder_finish (v : Value) (l : Byte) (fr : TenBytes) (st : Word32) (eb : TenBytes)
    (t0 : Nat) (s : State) :
    keepsOutside s (finish v l fr st { s with ebuf := eb, t0 := t0 }) ∧
      keepsDecoder s (finish v l fr st { s with ebuf := eb, t0 := t0 }) := by
  simp [keepsOutside, keepsDecoder]

end Sys2Proof.Machine

open Sys2Proof Sys2Proof.Machine

/-- Settles O13: the candidate length does not collide, so it is the encoder's length. -/
theorem encodeHasTheClosedForm : Obligations.EncodeHasTheClosedForm := fun v =>
  ⟨collision_minimalFrameBytes (sigBits v), encodeLength_eq v, encodeLength_pos v, encodeLength_le v,
    by rw [encodeFrame, encodeLength_eq, frameBytes, frameInt]⟩

/-- Settles O12: FRAME is the encoder's frame, and 0 past its end. -/
theorem encWritesTheFrame : Obligations.EncWritesTheFrame := by
  refine ⟨fun s v hp ho => ?_, fun s hb ha => acceptCommand_of_arg_none hb rfl ha, rfl⟩
  refine ⟨tenBytes (encodeFrame v), storeBytes (encodeFrame v) 0 s.ebuf, oneStep_withOperand_of_some hp ho,
    length_encodeFrame v, fun j => (getElem_tenBytes _ j).trans ?_⟩
  by_cases hj : j.val < encodeLength v
  · rw [if_pos hj]
  · rw [if_neg hj, List.getD_eq_default _ _ (by rw [length_encodeFrame]; exact not_lt.mp hj)]

/-- Settles O16: the ranges by the least length that holds the value, the bytes by the parts of the frame. -/
theorem encodingTableByLength : Obligations.EncodingTableByLength := by
  refine fun v => ⟨fun t ht _ => encodeLength_eq_iff v ht, ?_, fun t _ ht h => encodeFrame_of_le_six ht h,
    fun h => ?_, fun h => ?_, fun h => ?_, fun h => ?_⟩
  · rw [encodeLength_eq_iff v (by decide)]
    have hv := v.isLt
    omega
  · have hv : v.toNat < 2 ^ (7 * 7 - 1) := ((encodeLength_eq_iff v (by decide)).mp h).2
    rw [encodeFrame_eq_parts h, headByte_of_lt hv]
    rfl
  · rw [encodeFrame_eq_parts h]
    simp [headByte, tailLength]
  · rw [encodeFrame_eq_parts h]
    simp [headByte, tailLength]
  · rw [encodeFrame_eq_parts h, headByte_of_lt v.isLt]
    rfl

/-- Settles O44, by what `exec` can answer. -/
theorem oneStepOperationsFrame : Obligations.OneStepOperationsFrame := by
  intro i s t hi h
  rcases exec_next i s t h with ⟨hdec, -⟩ | ⟨-, -, rfl⟩ |
    ⟨-, hp, ⟨hr, ho, rfl⟩ | ⟨e, rfl⟩ | ⟨v, l, -, -, rfl⟩ | ⟨v, henc, rfl⟩⟩
  · exact absurd hdec hi
  · simp [keepsOutside, keepsDecoder, keepsEncoder]
  · exact ⟨.inr ⟨hr, hp, ho, rfl⟩, by simp [keepsDecoder], fun _ => ⟨rfl, rfl⟩, absurd hp⟩
  · obtain ⟨hout, hdec⟩ :=
      keepsOutside_and_keepsDecoder_finish 0#64 0#8 (tenBytes []) (statusError e) s.ebuf s.t0 s
    exact ⟨.inl hout, hdec, fun _ => ⟨rfl, rfl⟩, absurd hp⟩
  · obtain ⟨hout, hdec⟩ := keepsOutside_and_keepsDecoder_finish v l (tenBytes []) statusDone s.ebuf s.t0 s
    exact ⟨.inl hout, hdec, fun _ => ⟨rfl, rfl⟩, absurd hp⟩
  · obtain ⟨hout, hdec⟩ := keepsOutside_and_keepsDecoder_finish 0#64 (BitVec.ofNat 8 (encodeLength v))
      (tenBytes (encodeFrame v)) statusDone (storeBytes (encodeFrame v) 0 s.ebuf) (encodeLength v) s
    exact ⟨.inl hout, hdec, absurd henc, absurd hp⟩
end

section
/-! SUPPORT. The ByteSource port: what each source agent answers (42_bytesource R142, R146, R150), when a turn changes
nothing (R144, R149), and how a step of a DECODE brings it nearer to completion (43_decoder R161). -/

namespace Sys2Proof.Machine

/-! The answers of a source agent. -/

/-- An agent that has the bytes and has not answered END can answer with them (42_bytesource R146). -/
theorem dataAnswer_of_le {n : Nat} {a : SourceAgent} (he : a.ended = false) (hn : a.pos + n ≤ a.bytes.length) :
    dataAnswer n a = some (.data ((a.bytes.drop a.pos).take n), { a with pos := a.pos + n }) :=
  if_pos ⟨he, hn⟩

theorem dataAnswer_of_lt {n : Nat} {a : SourceAgent} (hn : a.bytes.length < a.pos + n) : dataAnswer n a = none :=
  if_neg fun h => not_lt.mpr h.2 hn

theorem dataAnswer_of_ended {n : Nat} {a : SourceAgent} (he : a.ended = true) : dataAnswer n a = none :=
  if_neg fun h => Bool.false_ne_true (h.1.symm.trans he)

/-- ByteSourceOver has one answer, whichever choice a turn names (42_bytesource R150). -/
theorem sourceAnswer_of_over {c : SourceChoice} {n : Nat} {a : SourceAgent} (hk : a.kind = .over) :
    sourceAnswer c n a = some (overAnswer n a) := by
  rw [sourceAnswer, hk]

theorem overAnswer_of_data {n : Nat} {a b : SourceAgent} {r : Response} (h : dataAnswer n a = some (r, b)) :
    overAnswer n a = (r, b) := by
  rw [overAnswer, h, Option.getD_some]

/-- Where ByteSourceOver has no DATA it answers END and discards the rest (42_bytesource R150). -/
theorem overAnswer_of_no_data {n : Nat} {a : SourceAgent} (h : dataAnswer n a = none) :
    overAnswer n a = (.endOfInput, { a with pos := a.bytes.length, ended := true }) := by
  rw [overAnswer, h, Option.getD_none]

/-- ByteSourceOver answers DATA, or END from an agent that is then at the end of its stream (42_bytesource R150). -/
theorem overAnswer_cases (n : Nat) (a : SourceAgent) :
    (∃ bytes, overAnswer n a = (.data bytes, { a with pos := a.pos + n })) ∨
      overAnswer n a = (.endOfInput, { a with pos := a.bytes.length, ended := true }) := by
  cases hd : dataAnswer n a with
  | none => exact .inr (overAnswer_of_no_data hd)
  | some q =>
    obtain ⟨_, _, hr, hb⟩ := dataAnswer_some (r := q.1) (b := q.2) hd
    exact .inl ⟨_, (overAnswer_of_data hd).trans (Prod.ext hr hb)⟩

/-- ByteSourceOver at the end of its stream, END answered, answers END and stays as it is (42_bytesource R146). -/
theorem sourceAnswer_of_over_ended {c : SourceChoice} {n : Nat} {a : SourceAgent} (hk : a.kind = .over)
    (he : a.ended = true) (hp : a.pos = a.bytes.length) : sourceAnswer c n a = some (.endOfInput, a) := by
  rw [sourceAnswer_of_over hk, overAnswer_of_no_data (dataAnswer_of_ended he), ← he, ← hp]

/-! The answer step. -/

theorem answerRequest_of_not_srcWait {c : SourceChoice} {s : State} (hw : srcWait s = false) : answerRequest c s = s := by
  simp only [answerRequest, hw, Bool.false_eq_true, if_false]

/-- No step without an agent that has the choice (42_bytesource R144, R149). -/
theorem answerRequest_of_no_answer {c : SourceChoice} {s : State} (h : s.source.bind (sourceAnswer c s.reqN) = none) :
    answerRequest c s = s := by
  simp only [answerRequest, h, ite_self]

/-- An outstanding request is answered: the slot, SRC_WAIT and the agent (42_bytesource R144). -/
theorem answerRequest_of_answer {c : SourceChoice} {a b : SourceAgent} {r : Response} {s : State}
    (hw : srcWait s = true) (hs : s.source = some a) (h : sourceAnswer c s.reqN a = some (r, b)) :
    answerRequest c s = { s with resp := r, status := withoutSrcWait s.status, source := some b } := by
  simp only [answerRequest, hw, hs, h, if_true, Option.bind_some]

/-- The source agent's turn is its answer step (log 2). -/
theorem step_of_source {c : SourceChoice} {rest : List Turn} {s : State} (hm : s.hpv = false)
    (hs : s.schedule = .source c :: rest) : step s = .next (answerRequest c { s with schedule := rest }) :=
  step_of_schedule hm hs

/-! The wait for an answer. -/

/-- While its request is outstanding a DECODE takes no step (42_bytesource R144). -/
theorem decodeStep_of_srcWait {s : State} (hp : s.phase ≠ .decStart) (hw : srcWait s = true) : decodeStep s = s := by
  rcases decodeStep_cases s with ⟨_, h⟩ | ⟨hstart, _⟩ | ⟨_, h⟩ | ⟨_, h⟩ | ⟨_, h⟩
  · exact h
  · exact absurd hstart hp
  all_goals exact h.trans (if_pos hw)

/-- Where neither the block nor a ByteSourceOver can move, the host does (log 2). -/
theorem eagerTurn_of_unanswered {s : State} (hw : srcWait s = true)
    (hk : ∀ a, s.source = some a → a.kind = .free) : eagerTurn s = .host := by
  have hblock : blockEnabled s = false := by simp [blockEnabled, hw]
  have hsource : sourceEnabled s = false := by
    cases hs : s.source with
    | none => simp [sourceEnabled, hs]
    | some a => simp [sourceEnabled, hs, hk a hs]
  simp [eagerTurn, hblock, hsource]

/-- A host whose program has ended has no step (log 3). -/
theorem hostTurn_of_nil {s : State} (h : s.hostProgram = []) : hostTurn s = s := by
  rw [hostTurn, h]

/-! The progress of a DECODE. -/

/-- Fewer than n steps of the block are left, and where none is left the DECODE has completed (43_decoder R161, R165). -/
def stepsLeftBelow (n : Nat) (t : State) : Prop :=
  decodeStepsLeft t.phase < n ∧ (decodeStepsLeft t.phase = 0 → done t = true)

/-- A completion leaves no step. -/
theorem stepsLeftBelow_of_completion {n : Nat} {t : State} (hn : 0 < n) (hp : t.phase = .idle)
    (hst : t.status = statusDone ∨ ∃ e, t.status = statusError e) : stepsLeftBelow n t :=
  ⟨by rw [hp]; exact hn, fun _ => getLsbD_one_of_completion hst⟩

theorem stepsLeftBelow_raiseError {n : Nat} {e : ArchError} {s : State} (hn : 0 < n) :
    stepsLeftBelow n (raiseError e s) :=
  stepsLeftBelow_of_completion hn rfl (.inr ⟨e, rfl⟩)

/-- A phase that has steps left, but fewer than n. -/
theorem stepsLeftBelow_of_phase {n : Nat} {p : Phase} {t : State} (hp : t.phase = p) (hpos : 0 < decodeStepsLeft p)
    (hlt : decodeStepsLeft p < n) : stepsLeftBelow n t := by
  subst hp
  exact ⟨hlt, fun h => absurd h hpos.ne'⟩

/-- After the terminating byte only the tail can be missing (43_decoder R165). -/
theorem stepsLeftBelow_onTerminatingByte {n : Nat} {b : Byte} {s : State} (hn : 1 < n) :
    stepsLeftBelow n (onTerminatingByte b s) := by
  obtain ⟨_, _, ⟨hp, _, _⟩ | ⟨hp, hst⟩⟩ := onTerminatingByte_frame b s
  · exact stepsLeftBelow_of_phase hp (by decide) hn
  · exact stepsLeftBelow_of_completion (by omega) hp (hst.symm.imp_right fun ⟨e, he, _⟩ => ⟨e, he⟩)

theorem stepsLeftBelow_onByte0 (b : Byte) (s : State) : stepsLeftBelow 3 (onByte0 b s) := by
  unfold onByte0
  split
  · exact stepsLeftBelow_of_phase (p := .decB1) rfl (by decide) (by decide)
  · exact stepsLeftBelow_onTerminatingByte (by decide)

theorem stepsLeftBelow_onByte1 (b : Byte) (s : State) : stepsLeftBelow 2 (onByte1 b s) := by
  unfold onByte1
  split
  · exact stepsLeftBelow_raiseError (by decide)
  · exact stepsLeftBelow_onTerminatingByte (by decide)

theorem stepsLeftBelow_onTail (bytes : List Byte) (s : State) : stepsLeftBelow 1 (onTail bytes s) :=
  stepsLeftBelow_of_completion (by decide) rfl (.inl rfl)

/-- An answered request is taken: an error, or the bytes of the response (42_bytesource R142, R145). -/
theorem takeResponse_of_answered {n : Nat} {s : State} (e : ArchError) (g : List Byte → State → State)
    (hport : portConsistent s = true) (hw : srcWait s = false) (hn : s.reqN = n) :
    (∃ err, takeResponse n e g s = raiseError err { s with resp := .none }) ∨
      ∃ bytes, takeResponse n e g s = g bytes { s with resp := .none } := by
  simp only [takeResponse, hw, Bool.false_eq_true, if_false]
  cases hr : s.resp with
  | none =>
    have hst : s.status = withSrcWait statusAccepted := by simpa [portConsistent, hr] using hport
    rw [srcWait_def, hst, getLsbD_withSrcWait_three] at hw
    cases hw
  | data bytes =>
    have hlen : bytes.length = s.reqN := by
      simp only [portConsistent, hr, Bool.and_eq_true, beq_iff_eq] at hport
      exact hport.2
    exact .inr ⟨bytes, if_pos (hlen.trans hn)⟩
  | endOfInput => exact .inl ⟨e, rfl⟩
  | sourceError => exact .inl ⟨.sourceError, rfl⟩

/-- A take step leaves fewer steps where what it does with the bytes does (43_decoder R161). -/
theorem stepsLeftBelow_takeResponse {n m : Nat} {e : ArchError} {g : List Byte → State → State} {s : State}
    (hport : portConsistent s = true) (hw : srcWait s = false) (hn : s.reqN = n) (hm : 0 < m)
    (hg : ∀ bytes u, stepsLeftBelow m (g bytes u)) : stepsLeftBelow m (takeResponse n e g s) := by
  rcases takeResponse_of_answered e g hport hw hn with ⟨err, h⟩ | ⟨bytes, h⟩ <;> rw [h]
  · exact stepsLeftBelow_raiseError hm
  · exact hg bytes _

/-- Every enabled step of a DECODE, by its phase (43_decoder R161, R165). -/
theorem stepsLeftBelow_decodeStep {s : State} (h : blockConsistent s = true) (hi : inDecode s = true)
    (hw : srcWait s = false) : stepsLeftBelow (decodeStepsLeft s.phase) (decodeStep s) := by
  rcases decodeStep_cases s with ⟨hni, _⟩ | ⟨hp, hd⟩ | ⟨hp, hd⟩ | ⟨hp, hd⟩ | ⟨hp, hd⟩
  · exact absurd (hni.symm.trans hi) Bool.false_ne_true
  all_goals rw [hd, hp]
  · exact stepsLeftBelow_of_phase (p := .decB0) rfl (by decide) (by decide)
  · obtain ⟨_, hport, _, hn, _⟩ := (blockConsistent_decB0 hp).mp h
    exact stepsLeftBelow_takeResponse hport hw hn (by decide) fun _ => stepsLeftBelow_onByte0 _
  · obtain ⟨_, hport, _, hn, _⟩ := (blockConsistent_decB1 hp).mp h
    exact stepsLeftBelow_takeResponse hport hw hn (by decide) fun _ => stepsLeftBelow_onByte1 _
  · obtain ⟨_, hport, _⟩ := (blockConsistent_decTail hp).mp h
    exact stepsLeftBelow_takeResponse hport hw rfl (by decide) stepsLeftBelow_onTail

/-- No phase has more steps of the block left than DEC_START (43_decoder R165). -/
theorem decodeStepsLeft_le_four (p : Phase) : decodeStepsLeft p ≤ 4 := by
  cases p <;> decide

end Sys2Proof.Machine

open Sys2Proof Sys2Proof.Machine

/-- Settles O19, by whether there is an answer to take. -/
theorem answerStepChangesOnlyThePort : Obligations.AnswerStepChangesOnlyThePort := by
  intro s c rest hm hs
  rw [step_of_source hm hs]
  refine ⟨fun hw => congrArg _ (answerRequest_of_not_srcWait hw),
    fun hsrc => congrArg _ (answerRequest_of_no_answer (by simp [hsrc])), fun a hw hsrc => ?_⟩
  cases ha : sourceAnswer c s.reqN a with
  | none => exact .inl ⟨rfl, congrArg _ (answerRequest_of_no_answer (by simp [hsrc, ha]))⟩
  | some q => exact .inr ⟨q.1, q.2, rfl, sourceAnswer_ne_none ha, congrArg _ (answerRequest_of_answer hw hsrc ha)⟩

/-- Settles O20, by the three kinds of answer. -/
theorem answersAreNeverShort : Obligations.AnswersAreNeverShort := by
  intro c n a b r h
  rcases sourceAnswer_some h with hd | ⟨rfl, p, rfl⟩ | ⟨_, he, rfl, p, rfl⟩
  · obtain ⟨he, hle, rfl, rfl⟩ := dataAnswer_some hd
    have hlen : ((a.bytes.drop a.pos).take n).length = n := by
      rw [List.length_take, List.length_drop]
      omega
    simp [he, hlen]
  · simp
  · simp [he]

/-- Settles O22: an END answer leaves the agent at the end of its stream, where it answers END again. -/
theorem byteSourceOverAnswersInOrder : Obligations.ByteSourceOverAnswersInOrder := by
  refine fun c bytes p n _ => ⟨fun h => ?_, fun h => ?_, fun a hk => ?_⟩
  · rw [sourceAnswer_of_over rfl, overAnswer_of_data (dataAnswer_of_le rfl h)]
  · rw [sourceAnswer_of_over rfl, overAnswer_of_no_data (dataAnswer_of_lt h)]
  · have hans : sourceAnswer c n a = some (overAnswer n a) := sourceAnswer_of_over hk
    rcases overAnswer_cases n a with ⟨bs, h⟩ | h <;> rw [h] at hans
    · exact ⟨_, _, hans, hk, nofun, nofun⟩
    · exact ⟨_, _, hans, hk, nofun, fun _ _ _ _ => sourceAnswer_of_over_ended hk rfl rfl⟩

/-- Settles O31, by the phases of a DECODE. -/
theorem decodeStepsMakeProgress : Obligations.DecodeStepsMakeProgress := by
  intro s hinv hi hw
  obtain ⟨hlt, hdone⟩ := stepsLeftBelow_decodeStep (inv_iff.mp hinv).1 hi hw
  exact ⟨decodeStep s, rfl, hlt, decodeStepsLeft_le_four s.phase, hdone⟩

/-- Settles O18: out of DEC_START the step is the request. -/
theorem decodeStartsWithARequestForOneByte : Obligations.DecodeStartsWithARequestForOneByte := by
  intro s hp
  have hd : decodeStep s = startDecode s := by rw [decodeStep, hp]
  exact congrArg Host.Outcome.next hd

/-- Settles O21: each answer is a choice of its own. -/
theorem freeAgentMayAnswerAnything : Obligations.FreeAgentMayAnswerAnything := by
  refine fun n skipped bytes p ended => ⟨fun he hle => ⟨.data, dataAnswer_of_le he hle⟩,
    ⟨.endOfInput skipped, rfl⟩, fun he => ⟨.sourceError skipped, ?_⟩⟩
  subst he
  rfl

/-- Settles O23: with no enabled step of the block or the agent the turn is the host's, whose program has ended. -/
theorem unansweredDecodeWaits : Obligations.UnansweredDecodeWaits := by
  intro s hp hw
  have hstart : s.phase ≠ .decStart := by
    intro h
    simp [h] at hp
  refine ⟨congrArg Host.Outcome.next (decodeStep_of_srcWait hstart hw), fun hm hs hprog hk => ?_⟩
  rw [step_of_nil hm hs, eagerTurn_of_unanswered hw hk, takeTurn, hostTurn_of_nil hprog]
end

section
/-! SUPPORT. What a DECODE does with each frame byte (43_decoder R165 to R170), what it leaves unchanged, and what an
error leaves of an operation (60_exceptions R203). -/

namespace Sys2Proof.Machine

/-! The byte that ends the run, outcome by outcome. -/

/-- A completion with an error leaves its code and no result (60_exceptions R203). -/
theorem completedWith_raiseError (e : ArchError) (s : State) :
    completedWith (raiseError e s) (statusError e) 0 0 (Vector.replicate 10 0#8) :=
  ⟨rfl, rfl, rfl, rfl, tenBytes_nil⟩

section Outcomes
variable {b : Byte} {s : State}

/-- No leading one in byte 0 (43_decoder R167). -/
theorem onTerminatingByte_of_zeroRun (h : 8 * s.f + clo8 b = 0) :
    onTerminatingByte b s = raiseError .malformedZeroRun (terminated b s) :=
  if_pos h

/-- A run longer than the longest frame's (43_decoder R168). -/
theorem onTerminatingByte_of_overlong (h : 10 < 8 * s.f + clo8 b) :
    onTerminatingByte b s = raiseError .malformedOverlong (terminated b s) := by
  rw [onTerminatingByte_eq, if_neg (by omega), if_pos h]

/-- Payload bits above the 64 of a value (43_decoder R169). -/
theorem onTerminatingByte_of_overflow (h : 8 * s.f + clo8 b = 10) (hb : headBits b (clo8 b) ≠ 0x00#8) :
    onTerminatingByte b s = raiseError .malformedOverflow (terminated b s) := by
  rw [onTerminatingByte_eq, if_neg (by omega), if_neg (by omega), if_pos ⟨h, hb⟩]

variable (hle : 8 * s.f + clo8 b ≤ 10) (hten : 8 * s.f + clo8 b = 10 → headBits b (clo8 b) = 0x00#8)
include hle hten

/-- A frame with bytes still to come (43_decoder R165). -/
theorem onTerminatingByte_of_missing (h : s.nread < 8 * s.f + clo8 b) :
    onTerminatingByte b s = requestBytes (8 * s.f + clo8 b - s.nread) .decTail (terminated b s) := by
  rw [onTerminatingByte_eq, if_neg (by omega), if_neg (by omega), if_neg fun hc => hc.2 (hten hc.1), if_pos (by omega)]

/-- A frame that is whole (43_decoder R170). -/
theorem onTerminatingByte_of_whole (hpos : 1 ≤ 8 * s.f + clo8 b) (h : 8 * s.f + clo8 b ≤ s.nread) :
    onTerminatingByte b s = completeDecode s.nread (terminated b s) := by
  rw [onTerminatingByte_eq, if_neg (by omega), if_neg (by omega), if_neg fun hc => hc.2 (hten hc.1), if_neg (by omega)]

omit hle hten

/-- The request for the missing bytes of a frame of length t leaves the results (43_decoder R165). -/
theorem requestedIn_onTerminatingByte {t : Nat} (ht : 8 * s.f + clo8 b = t) (h10 : t ≤ 10)
    (hhead : t = 10 → headBits b (clo8 b) = 0x00#8) (hn : s.nread < t) :
    requestedIn (onTerminatingByte b s) .decTail (t - s.nread) (s.status ||| 0x00000008#32) ∧
      (onTerminatingByte b s).frameT = t ∧ keepsResults s (onTerminatingByte b s) := by
  subst ht
  rw [onTerminatingByte_of_missing h10 hhead hn]
  exact ⟨⟨rfl, rfl, rfl, rfl⟩, rfl, rfl, rfl, rfl⟩

end Outcomes

/-! The leading ones of a frame byte. -/

theorem ne_ff_of_lt {b : Byte} (h : b.toNat < 0xFF) : b ≠ 0xFF#8 := fun hb => absurd (hb ▸ h) (lt_irrefl _)

/-- The top three bits of a byte from 0xE0 on are ones (30_encoding R80). -/
theorem three_le_clo8 {b : Byte} (h : 0xE0 ≤ b.toNat) : 3 ≤ clo8 b := by
  have hbit : ∀ i, 5 ≤ i → i < 8 → b.getLsbD i = true := by
    intro i h5 h8
    have hlt := b.isLt
    rw [BitVec.getLsbD, Nat.testBit_eq_decide_div_mod_eq, decide_eq_true_eq]
    interval_cases i <;> omega
  simp only [clo8, onesFrom, hbit 7 (by omega) (by omega), hbit 6 (by omega) (by omega), hbit 5 (by omega) (by omega),
    if_true]
  omega

/-! The take step of each frame byte. -/

/-- The state with the response taken and its one byte stored as frame byte i (43_decoder R160). -/
def received (i : Nat) (b : Byte) (s : State) : State :=
  { s with resp := .none, dbuf := storeBytes [b] i s.dbuf, nread := i + 1 }

@[simp] theorem received_f (i : Nat) (b : Byte) (s : State) : (received i b s).f = s.f := rfl

@[simp] theorem received_nread (i : Nat) (b : Byte) (s : State) : (received i b s).nread = i + 1 := rfl

/-- Frame byte i is b, the last byte read, and the slot is empty (10_state R34). -/
abbrev hasReceived (i : Nat) (b : Byte) (t : State) : Prop :=
  t.resp = .none ∧ byteAt t.dbuf i = b ∧ t.nread = i + 1

theorem hasReceived_received {i : Nat} (hi : i < 10) (b : Byte) (s : State) : hasReceived i b (received i b s) :=
  ⟨rfl, byteAt_storeBytes_self b s.dbuf hi, rfl⟩

/-- Of the staging state the checks of the byte write k and T only (43_decoder R160). -/
theorem hasReceived_onTerminatingByte {i : Nat} {b c : Byte} {s : State} (h : hasReceived i b s) :
    hasReceived i b (onTerminatingByte c s) := by
  obtain ⟨hresp, hbyte, hnread⟩ := h
  rcases onTerminatingByte_cases c s with ⟨_, ho⟩ | ⟨_, ho⟩ | ⟨_, _, ho⟩ | ⟨_, _, _, ⟨_, ho⟩ | ⟨_, ho⟩⟩ <;> rw [ho]
  · exact ⟨hresp, hbyte, hnread⟩
  · exact ⟨hresp, hbyte, hnread⟩
  · exact ⟨hresp, hbyte, hnread⟩
  · exact ⟨rfl, hbyte, hnread⟩
  · exact ⟨hresp, hbyte, hnread⟩

section Take
variable {s : State} (hw : srcWait s = false)
include hw

/-- A response of the size asked for is taken (42_bytesource R145). -/
theorem takeResponse_of_data {n : Nat} {e : ArchError} {g : List Byte → State → State} {bytes : List Byte}
    (hr : s.resp = .data bytes) (hn : bytes.length = n) :
    takeResponse n e g s = g bytes { s with resp := .none } := by
  simp only [takeResponse, hw, hr, hn, Bool.false_eq_true, if_false, if_true]

/-- The step that takes frame byte 0 (43_decoder R160). -/
theorem decodeStep_of_byte0 {b : Byte} (hp : s.phase = .decB0) (hr : s.resp = .data [b]) :
    decodeStep s = if b = 0xFF#8 then requestBytes 1 .decB1 { received 0 b s with f := 1 }
      else onTerminatingByte b (received 0 b s) := by
  rw [decodeStep, hp]
  exact takeResponse_of_data hw hr rfl

/-- The step that takes frame byte 1 (43_decoder R160, R168). -/
theorem decodeStep_of_byte1 {b : Byte} (hp : s.phase = .decB1) (hr : s.resp = .data [b]) :
    decodeStep s = if b = 0xFF#8 then raiseError .malformedOverlong (received 1 b s)
      else onTerminatingByte b (received 1 b s) := by
  rw [decodeStep, hp]
  exact takeResponse_of_data hw hr rfl

/-- The step that takes the tail (43_decoder R160, R170). -/
theorem decodeStep_of_tail {bytes : List Byte} (hp : s.phase = .decTail) (hr : s.resp = .data bytes)
    (hn : bytes.length = s.reqN) : decodeStep s = onTail bytes { s with resp := .none } := by
  rw [decodeStep, hp]
  exact takeResponse_of_data hw hr hn

theorem hasReceived_of_byte0 {b : Byte} (hp : s.phase = .decB0) (hr : s.resp = .data [b]) :
    hasReceived 0 b (decodeStep s) := by
  have hrec := hasReceived_received (i := 0) (by omega) b s
  rw [decodeStep_of_byte0 hw hp hr]
  split
  · exact hrec
  · exact hasReceived_onTerminatingByte hrec

theorem hasReceived_of_byte1 {b : Byte} (hp : s.phase = .decB1) (hr : s.resp = .data [b]) :
    hasReceived 1 b (decodeStep s) := by
  have hrec := hasReceived_received (i := 1) (by omega) b s
  rw [decodeStep_of_byte1 hw hp hr]
  split
  · exact hrec
  · exact hasReceived_onTerminatingByte hrec

end Take

/-- The value of a tail state and the bytes it waits for fits 64 bits (43_decoder R169). -/
theorem tailValue_lt {s : State} {bytes : List Byte} (h : tailConsistent s = true) (hn : bytes.length = s.reqN) :
    (headBits (byteAt s.dbuf (s.nread - 1)) s.k).toNat * 2 ^ (8 * bytes.length) + beVal bytes < 2 ^ 64 := by
  obtain ⟨hf, hk, _, hT, _, hT10, hnread, hsum, _, _, hten⟩ := tailConsistent_spec h
  rw [hnread, Nat.add_sub_cancel]
  have hhead := headBits_lt (byteAt s.dbuf s.f) s.k hk
  have htail := beVal_lt bytes
  by_cases h10 : s.frameT = 10
  · rw [hten h10]
    have h8 : bytes.length = 8 := by omega
    rw [h8] at htail ⊢
    simpa using htail
  · calc (headBits (byteAt s.dbuf s.f) s.k).toNat * 2 ^ (8 * bytes.length) + beVal bytes
        < (headBits (byteAt s.dbuf s.f) s.k).toNat * 2 ^ (8 * bytes.length) + 2 ^ (8 * bytes.length) := by omega
      _ = ((headBits (byteAt s.dbuf s.f) s.k).toNat + 1) * 2 ^ (8 * bytes.length) := by ring
      _ ≤ 2 ^ (7 - s.k) * 2 ^ (8 * bytes.length) := Nat.mul_le_mul_right _ hhead
      _ = 2 ^ (7 - s.k + 8 * bytes.length) := (Nat.pow_add ..).symm
      _ ≤ 2 ^ 64 := Nat.pow_le_pow_right (by omega) (by omega)

/-- A one-byte frame holds the six bits under its leading one (30_encoding R80, 43_decoder R170). -/
theorem completedWith_onTerminatingByte_of_one {b : Byte} {s : State} (hclo : clo8 b = 1) (hf : s.f = 0)
    (hn : s.nread = 1) (hb : byteAt s.dbuf 0 = b) :
    completedWith (onTerminatingByte b s) 0x00000002#32 (b &&& 0x3F#8).toNat 1 (Vector.replicate 10 0#8) := by
  have hone : 8 * s.f + clo8 b = 1 := by rw [hf, hclo]
  have hval : assembleValue s.dbuf (clo8 b) (8 * s.f + clo8 b) 1 = (b &&& 0x3F#8).toNat := by
    rw [assembleValue, Nat.sub_self, hb, hone, sliceBytes_of_le _ _ _ le_rfl, hclo]
    simp [beVal, headBits]
  have hmain := completedWith_completeDecode (s := terminated b s) (hone.trans_le (by decide))
    ((b &&& 0x3F#8).isLt.trans (by decide)) hval
  rw [onTerminatingByte_of_whole (by omega) (by omega) (by omega) (by omega), hn]
  exact hone ▸ hmain

/-- The STATUS of an error gives its code, one of the table (60_exceptions R201, R203). -/
theorem code_of_statusError {e : ArchError} {t : State} (h : t.status = statusError e) :
    ∃ code : Nat, 1 ≤ code ∧ code ≤ 8 ∧ t.status.toNat = 0x06 + code * 16 ∧ errCode t = BitVec.ofNat 4 code := by
  obtain ⟨hlow, hhigh⟩ := codeOf_range e
  refine ⟨(codeOf e).toNat, hlow, hhigh, by rw [h, toNat_statusError], ?_⟩
  rw [errCode, h]
  cases e <;> rfl

end Sys2Proof.Machine

open Sys2Proof Sys2Proof.Machine

/-- Settles O45, by what a step of a DECODE changes. -/
theorem decodeFrame : Obligations.DecodeFrame := by
  rintro s t ⟨⟩
  obtain ⟨hout, henc, heq | ⟨hi, -, hres, hst⟩ | ⟨hi, hidle, -⟩⟩ := decodeStep_frame s
  · exact ⟨hout, henc, fun _ => heq.symm ▸ ⟨⟨rfl, rfl, rfl⟩, .inl rfl⟩, fun _ => heq⟩
  · exact ⟨hout, henc, fun _ => ⟨hres, .inr hst⟩, fun hni => absurd (hni.symm.trans hi) Bool.false_ne_true⟩
  · exact ⟨hout, henc, absurd hidle, fun hni => absurd (hni.symm.trans hi) Bool.false_ne_true⟩

/-- Settles O46, by what `exec` can answer. -/
theorem errorsLeaveNoResult : Obligations.ErrorsLeaveNoResult := by
  intro i s t h hs ht
  rcases exec_next i s t h with ⟨-, rfl⟩ | ⟨-, -, rfl⟩ |
    ⟨-, hp, ⟨-, -, rfl⟩ | ⟨e, rfl⟩ | ⟨v, l, -, -, rfl⟩ | ⟨v, -, rfl⟩⟩
  · obtain ⟨-, -, heq | ⟨-, hi, -⟩ | ⟨-, -, ⟨e, he, hv, hl, hf⟩ | hdone⟩⟩ := decodeStep_frame s
    · exact absurd (heq ▸ ht) hs
    · simp [inDecode, ht] at hi
    · exact .inr ⟨hv, hl, hf, code_of_statusError he⟩
    · exact .inl hdone
  · exact absurd ht hs
  · exact absurd ht hs
  · exact .inr ⟨rfl, rfl, tenBytes_nil, code_of_statusError (e := e) rfl⟩
  · exact .inl rfl
  · exact .inl rfl

/-- Settles O24, range by range of the byte's leading ones. -/
theorem decodeClassifiesFrameByte0 : Obligations.DecodeClassifiesFrameByte0 := by
  intro s b hp hw hr hf
  obtain ⟨hout, henc, -⟩ := decodeStep_frame s
  obtain ⟨hresp, hbyte, hnread⟩ := hasReceived_of_byte0 hw hp hr
  have hstep := decodeStep_of_byte0 hw hp hr
  refine ⟨decodeStep s, rfl, hout, henc, hresp, hbyte, hnread, fun hlt => ?_, fun hge hlt => ?_,
    fun len h2 h7 hge hlt => ?_, fun hff => ?_⟩
  · have hlen : 8 * (received 0 b s).f + clo8 b = 0 := by rw [received_f, hf, clo8_of_lt hlt]
    rw [hstep, if_neg (ne_ff_of_lt (by omega)), onTerminatingByte_of_zeroRun hlen]
    exact completedWith_raiseError _ _
  · obtain ⟨hclo, -⟩ := clo8_of_range 1 b hge hlt
    rw [hstep, if_neg (ne_ff_of_lt (by omega))]
    exact completedWith_onTerminatingByte_of_one hclo hf rfl (byteAt_storeBytes_self b s.dbuf (by omega))
  · obtain ⟨hclo, -⟩ := clo8_of_range ⟨len, by omega⟩ b hge hlt
    have hpos := Nat.two_pow_pos (7 - len)
    have hlen : 8 * (received 0 b s).f + clo8 b = len := by rw [received_f, hf, hclo, Nat.mul_zero, Nat.zero_add]
    rw [hstep, if_neg (ne_ff_of_lt (by omega))]
    exact requestedIn_onTerminatingByte hlen (by omega) (by omega) h2
  · rw [hstep, if_pos (BitVec.eq_of_toNat_eq hff)]
    exact ⟨⟨rfl, rfl, rfl, rfl⟩, rfl, rfl, rfl, rfl⟩

/-- Settles O25, range by range of the byte's leading ones, after the eight of frame byte 0. -/
theorem decodeClassifiesFrameByte1 : Obligations.DecodeClassifiesFrameByte1 := by
  intro s b hp hw hr hf
  obtain ⟨hout, henc, -⟩ := decodeStep_frame s
  obtain ⟨hresp, hbyte, hnread⟩ := hasReceived_of_byte1 hw hp hr
  have hstep := decodeStep_of_byte1 hw hp hr
  have hlen : ∀ {k}, clo8 b = k → 8 * (received 1 b s).f + clo8 b = 8 + k := by
    rintro _ rfl
    rw [received_f, hf]
  refine ⟨decodeStep s, rfl, hout, henc, hresp, hbyte, hnread, fun hlt => ?_, fun hge hlt => ?_,
    fun heq => ?_, fun hge hlt => ?_, fun hge => ?_⟩
  · rw [hstep, if_neg (ne_ff_of_lt (by omega))]
    exact requestedIn_onTerminatingByte (hlen (clo8_of_lt hlt)) (by omega) nofun (by simp)
  · obtain ⟨hclo, -⟩ := clo8_of_range 1 b hge hlt
    rw [hstep, if_neg (ne_ff_of_lt (by omega))]
    exact requestedIn_onTerminatingByte (hlen hclo) (by decide) nofun (by simp)
  · obtain rfl : b = 0xC0#8 := BitVec.eq_of_toNat_eq heq
    rw [hstep, if_neg (by decide)]
    exact requestedIn_onTerminatingByte (hlen (k := 2) rfl) le_rfl (fun _ => by decide) (by simp)
  · obtain ⟨hclo, hbits⟩ := clo8_of_range 2 b (by simp; omega) hlt
    have hhead : headBits b (clo8 b) ≠ 0x00#8 := by
      intro hzero
      rw [← hclo, hzero] at hbits
      simp [hclo] at hbits
      omega
    rw [hstep, if_neg (ne_ff_of_lt (by omega)), onTerminatingByte_of_overflow (hlen hclo) hhead]
    exact completedWith_raiseError _ _
  · have hclo := three_le_clo8 hge
    rw [hstep, onTerminatingByte_of_overlong (by rw [hlen rfl]; omega)]
    split
    · exact completedWith_raiseError _ _
    · exact completedWith_raiseError _ _

/-- Settles O26: the value assembled from the byte that ended the run and the tail fits 64 bits. -/
theorem decodeAssemblesTheValue : Obligations.DecodeAssemblesTheValue := by
  intro s bytes hp hw hr hn hcons
  obtain ⟨hout, henc, -⟩ := decodeStep_frame s
  have hstep := decodeStep_of_tail hw hp hr hn
  rw [hstep] at hout henc
  obtain ⟨-, -, -, -, -, hT10, hnread, hsum, -⟩ := tailConsistent_spec hcons
  have hlen : s.nread + bytes.length = s.frameT := by omega
  have hsub : s.frameT - s.nread = bytes.length := by omega
  refine ⟨_, congrArg Host.Outcome.next hstep, hout, henc, rfl, ?_⟩
  rw [hsub]
  exact completedWith_onTail (s := { s with resp := .none }) rfl (by show 1 ≤ s.nread; omega) hlen hT10
    (tailValue_lt hcons hn) rfl
end

section
/-! SUPPORT. A DECODE over ByteSourceOver that ends before the frame does (43_decoder R176), and the step of the eager
order that runs the latched command (60_exceptions R209). -/

namespace Sys2Proof.Machine

/-! The step and the results of an ENC. -/

/-- Out of a request the eager order runs the latched command (log 2, 60_exceptions R209). -/
theorem step_of_latched {s : State} {c : Byte} (hm : s.hpv = false) (hs : s.schedule = []) (hp : s.phase ≠ .idle)
    (ho : s.op = some c) (hw : srcWait s = false) : step s = exec (decodeOpcode c) s := by
  have hc : currentCommand s = some (decodeOpcode c) := by
    rw [currentCommand, if_neg hp, ho]
    rfl
  have ht : eagerTurn s = .block := by simp [eagerTurn, blockEnabled, hc, hw]
  rw [step_of_nil hm hs, ht, takeTurn, blockTurn, hc]

/-- The bytes that fit into FRAME are read back from it. -/
theorem take_toList_tenBytes {bytes : List Byte} (h : bytes.length ≤ 10) :
    (tenBytes bytes).toList.take bytes.length = bytes := by
  refine List.ext_getElem (by simpa using h) fun j hj hj' => ?_
  have hten : j < 10 := hj'.trans_le h
  have hget := getElem_tenBytes bytes ⟨j, hten⟩
  rw [List.getD_eq_getElem _ _ hj'] at hget
  rw [List.getElem_take, Vector.getElem_toList]
  exact hget

/-! The end of the stream. -/

/-- A run of at most n steps completes with the error e and no result (60_exceptions R203). -/
abbrev failsWithin (n : Nat) (e : ArchError) (s : State) : Prop :=
  reachesWithin n s fun u => completedWith u (statusError e) 0 0 (Vector.replicate 10 0#8)

/-- A request for more bytes than ByteSourceOver has left is answered END, which the block takes (42_bytesource R150,
R145). -/
theorem failsWithin_requestBytes {bytes : List Byte} {n p : Nat} {ph : Phase} {e : ArchError}
    {g : List Byte → State → State} {s : State} (h : DecodesOver (overAt bytes p) s) (hend : bytes.length < p + n)
    (hph : ph ≠ .idle) (hstep : ∀ u, u.phase = ph → u.reqN = n → decodeStep u = takeResponse n e g u) :
    failsWithin 2 e (requestBytes n ph s) := by
  have hans := overAnswer_of_no_data (dataAnswer_of_lt (a := overAt bytes p) hend)
  have hagain : DecodesOver ⟨bytes, bytes.length, true, .over⟩ (answeredState n ph (overAt bytes p) s) :=
    ⟨h.hpv, h.schedule, h.op, h.status, by simp [answeredState, hans], rfl⟩
  have htake : decodeStep (answeredState n ph (overAt bytes p) s) =
      raiseError e { answeredState n ph (overAt bytes p) s with resp := .none } := by
    rw [hstep _ rfl rfl, takeResponse, srcWait_of_decodesOver hagain]
    simp [answeredState, hans]
  refine reachesWithin_succ_of_step (step_requestBytes h _ _)
    (reachesWithin_succ_of_step (step_of_decodesOver hagain hph) (reachesWithin_of_now ?_))
  rw [htake]
  exact completedWith_raiseError e _

/-! The run up to the byte that ends it. -/

section Run
variable {bytes rest : List Byte} {p : Nat} {s : State} (h : DecodesOver (overAt bytes p) s) (hp : s.phase = .decStart)
include h hp

/-- The step out of DEC_START (43_decoder R161). -/
theorem step_of_decStart : step s = .next (startDecode s) := by
  rw [step_of_decodesOver h (by simp [hp]), decodeStep, hp]

/-- What a DECODE reaches from the byte that ends a run of at most one byte 0xFF, it reaches within five steps more
(43_decoder R160, R161). -/
theorem reachesWithin_run {b : Byte} {f k : Nat} {P : State → Prop} (hf : f ≤ 1) (hb : b ≠ 0xFF#8)
    (hdrop : bytes.drop p = List.replicate f 0xFF#8 ++ b :: rest)
    (hk : ∀ u, DecodesOver (overAt bytes (p + f + 1)) u → u.f = f → u.nread = f + 1 → byteAt u.dbuf f = b →
      reachesWithin k (onTerminatingByte b u) P) : reachesWithin (k + 5) s P := by
  have hstart : DecodesOver (overAt bytes p) { s with nread := 0, f := 0 } :=
    ⟨h.hpv, h.schedule, h.op, h.status, h.source, h.kind⟩
  refine reachesWithin_succ_of_step (step_of_decStart h hp) ?_
  rcases Nat.le_one_iff_eq_zero_or_eq_one.mp hf with rfl | rfl
  · refine reachesWithin_mono (m := k + 2) (by omega) (reachesWithin_byte0 hdrop hstart ?_)
    rw [onByte0, if_neg hb]
    exact hk _ ⟨h.hpv, h.schedule, h.op, h.status, rfl, rfl⟩ rfl rfl (byteAt_storeBytes_self _ _ (by omega))
  · refine reachesWithin_byte0 hdrop hstart ?_
    rw [onByte0, if_pos rfl]
    refine reachesWithin_byte1 (drop_succ_of_drop_eq_cons hdrop) ⟨h.hpv, h.schedule, h.op, h.status, rfl, rfl⟩ ?_
    rw [onByte1, if_neg hb]
    exact hk _ ⟨h.hpv, h.schedule, h.op, h.status, rfl, rfl⟩ rfl rfl (byteAt_storeBytes_self _ _ (by omega))

/-- A stream that has ended at frame byte 0 (60_exceptions R205). -/
theorem failsWithin_of_no_byte (hend : bytes.length ≤ p) : failsWithin 3 .endOfInput s := by
  have hstart : DecodesOver (overAt bytes p) { s with nread := 0, f := 0 } :=
    ⟨h.hpv, h.schedule, h.op, h.status, h.source, h.kind⟩
  exact reachesWithin_succ_of_step (step_of_decStart h hp)
    (failsWithin_requestBytes (g := fun bytes => onByte0 (byteOrZero bytes 0)) hstart (by omega) (by simp)
      fun u hu _ => by rw [decodeStep, hu])

end Run

/-! A frame cut short. -/

section Truncated
variable {t v : Nat} (ht : 2 ≤ t) (hv : v < 2 ^ (7 * t - 1))
include ht hv

/-- All but the last byte of a frame of more than one byte: the run, the byte that ends it, and all but the last byte of
the tail (30_encoding R78). -/
theorem take_pred_frameBytes : (frameBytes t v).take (t - 1) =
    List.replicate (t / 8) 0xFF#8 ++ headByte t v :: (beBytes (tailLength t) v).take (tailLength t - 1) := by
  have hlen : t - 1 = t / 8 + (tailLength t - 1 + 1) := by
    unfold tailLength
    omega
  rw [frameBytes_eq_parts (by omega) hv, hlen, List.take_append, List.length_replicate, Nat.add_sub_cancel_left,
    List.take_of_length_le (by simp), List.take_succ_cons]

/-- From the byte that ends the run of a frame of more than one byte, the block requests the tail (43_decoder R165). -/
theorem onTerminatingByte_headByte {s : State} (ht10 : t ≤ 10) (hv64 : v < 2 ^ 64) (hf : s.f = t / 8)
    (hn : s.nread = t / 8 + 1) : onTerminatingByte (headByte t v) s =
      requestBytes (tailLength t) .decTail (terminated (headByte t v) s) := by
  obtain ⟨hclo, hbits⟩ := clo8_headByte (by omega) hv
  have hlen : 8 * s.f + clo8 (headByte t v) = t := by omega
  have htail : t - s.nread = tailLength t := by
    unfold tailLength
    omega
  have hten : t = 10 → headBits (headByte t v) (t % 8) = 0x00#8 := by
    rintro rfl
    exact BitVec.eq_of_toNat_eq (hbits.trans (Nat.div_eq_of_lt hv64))
  rw [onTerminatingByte_of_missing (by omega) (by rwa [hlen, hclo]) (by omega), hlen, htail]

end Truncated

/-- A DECODE of a frame whose last byte is missing (43_decoder R176). -/
theorem failsWithin_of_truncated {t v : Nat} {before : List Byte} {s : State} (ht : 2 ≤ t) (ht10 : t ≤ 10)
    (hv : v < 2 ^ (7 * t - 1)) (hv64 : v < 2 ^ 64)
    (h : DecodesOver (overAt (before ++ (frameBytes t v).take (t - 1)) before.length) s) (hp : s.phase = .decStart) :
    failsWithin 7 .truncatedFrame s := by
  refine reachesWithin_run (f := t / 8) h hp (by omega) (headByte_ne_ff (by omega) hv)
    (by rw [List.drop_left, take_pred_frameBytes ht hv]) fun u hu hf hn _ => ?_
  rw [onTerminatingByte_headByte ht hv ht10 hv64 hf hn]
  refine failsWithin_requestBytes (s := terminated (headByte t v) u) (g := onTail)
    ⟨hu.hpv, hu.schedule, hu.op, hu.status, hu.source, hu.kind⟩ ?_ (by simp)
    fun w hw hr => by simp [decodeStep, hw, hr]
  have hparts := length_eq_run_add_tail (t := t) (by omega)
  simp only [List.length_append, List.length_take, length_frameBytes]
  omega

end Sys2Proof.Machine

open Sys2Proof Sys2Proof.Machine

/-- Settles O29: FRAME holds the encoder's frame, and the DECODE is the run over it. -/
theorem encThenDecRoundTrip : Obligations.EncThenDecRoundTrip := by
  intro s s' v hm hs hp ho hst hv hm' hs' hp' ho' hst'
  have hw : srcWait s = false := by rw [srcWait_def, hst]; rfl
  have hpos := encodeLength_pos v
  have hten := encodeLength_le v
  have hfits : v.toNat < 2 ^ (7 * encodeLength v - 1) := (encodeLength_le_iff v hpos).mp le_rfl
  have hlen : (BitVec.ofNat 8 (encodeLength v)).toNat = encodeLength v := by
    rw [BitVec.toNat_ofNat]
    omega
  have hframe : (tenBytes (encodeFrame v)).toList.take (encodeLength v) = encodeFrame v := by
    rw [← length_encodeFrame]
    exact take_toList_tenBytes (by rwa [length_encodeFrame])
  refine ⟨encodeOp v s, (step_of_latched hm hs (by simp [hp]) ho hw).trans (oneStep_withOperand_of_some hp hv),
    getLsbD_one_of_completion (.inl rfl), (by decide : statusDone.getLsbD 2 = false),
    hlen.trans (encodeLength_eq v), fun hsrc => ?_⟩
  have hsrc' : s'.source = some (overAt (encodeFrame v) 0) := by
    rw [hsrc, ← hframe, ← hlen]
    rfl
  obtain ⟨k, u, hk, hrun, ⟨hidle, hdone, hval, hlen', -⟩, -⟩ := reachesWithin_frame (rest := []) hpos hten hfits
    v.isLt ⟨hm', hs', ho', hst', hsrc', rfl⟩ hp' (List.append_nil _).symm
  exact ⟨k, u, hk, hrun, hidle, hdone, BitVec.eq_of_toNat_eq hval, BitVec.eq_of_toNat_eq (hlen'.trans hlen.symm)⟩

/-- Settles O30: of a one-byte frame nothing is left, and of a longer one the tail is a byte short. -/
theorem truncatedFrameIsAnError : Obligations.TruncatedFrameIsAnError := by
  intro s t v before ht ht10 hv hv64 hm hs hp ho hst hsrc
  have h : DecodesOver (overAt (before ++ (frameBytes t v).take (t - 1)) before.length) s :=
    ⟨hm, hs, ho, hst, hsrc, rfl⟩
  rcases ht.eq_or_lt with rfl | ht
  · exact reachesWithin_mono (by omega) (failsWithin_of_no_byte h hp (by simp))
  · rw [if_neg (by omega)]
    exact failsWithin_of_truncated ht ht10 hv hv64 h hp
end

section
/-! SUPPORT. A host access that is a violation (60_exceptions R210, R211), the acceptance of a command (R200), and the
errors with one outcome: END, ERR and a reserved opcode (R205 to R208). -/

namespace Sys2Proof.Machine

/-! The registers of the window. -/

/-- The offsets from 0x28 to 0x31 are those of FRAME's bytes (20_memory R53, R55). -/
theorem exists_hostRegAt_frame {o : Fin 64} (hlow : 0x28 ≤ o.val) (hhigh : o.val ≤ 0x31) :
    ∃ j, hostRegAt o 1 = some (.frame j) := by
  have hj : o.val - 0x28 < 10 := by omega
  exact ⟨⟨o.val - 0x28, hj⟩, hostRegAt_frame (Nat.add_sub_of_le hlow).symm⟩

/-- No register has another offset or another width than those of the window (20_memory R56). -/
theorem hostRegAt_eq_none {o : Fin 64} {w : Nat} (hcmd : ¬(o = 0x00 ∧ w = 1)) (harg : ¬(o = 0x08 ∧ w = 8))
    (hstatus : ¬(o = 0x10 ∧ w = 4)) (hvalue : ¬(o = 0x18 ∧ w = 8)) (hlen : ¬(o = 0x20 ∧ w = 1))
    (hframe : ¬(0x28 ≤ o.val ∧ o.val ≤ 0x31 ∧ w = 1)) : hostRegAt o w = none := by
  have hoff : ∀ n : Fin 64, o.val = n.val → o = n := fun _ => Fin.ext
  rw [hostRegAt, if_neg fun h => hcmd ⟨hoff 0x00 h.1, h.2⟩, if_neg fun h => harg ⟨hoff 0x08 h.1, h.2⟩,
    if_neg fun h => hstatus ⟨hoff 0x10 h.1, h.2⟩, if_neg fun h => hvalue ⟨hoff 0x18 h.1, h.2⟩,
    if_neg fun h => hlen ⟨hoff 0x20 h.1, h.2⟩, dif_neg (by omega)]

/-! Accesses. -/

section Access
variable {s : State} {o : Fin 64} {w : Nat}

/-- The host's turn with an access that is a violation: the mark, the statement and turn used up (60_exceptions R210). -/
theorem step_of_violation {a : Access} {v : Violation} {prog : List HostStmt} {rest : List Turn} (hm : s.hpv = false)
    (hs : s.schedule = .host :: rest) (hp : s.hostProgram = .access a :: prog)
    (ha : busAccess a { s with schedule := rest, hostProgram := prog } = .error v) :
    step s = .next (markedBy v prog rest s) := by
  simp only [step_of_host hm hs, hostTurn, hp, accessOrMark, ha, markViolation]

theorem busAccess_read_of_violation {r : HostReg} {v : Violation} (hr : hostRegAt o w = some r)
    (hv : hostRead r s = .error v) : busAccess (.read o w) s = .error v := by
  simp [busAccess, hr, hv, Except.map]

/-- A write is the write to the register at the offset (20_memory R56). -/
theorem busAccess_write {r : HostReg} {d : Value} (hr : hostRegAt o w = some r) :
    busAccess (.write o w d) s = hostWrite r d s := by
  simp only [busAccess, hr]

/-- An access of a given width at an offset that is no register's is violation 5, in either direction
(60_exceptions R210). -/
theorem busAccess_of_no_register {a : Access} (ha : a = .read o w ∨ ∃ d, a = .write o w d)
    (hr : hostRegAt o w = none) : busAccess a s = .error .badOffsetOrWidth := by
  rcases ha with rfl | ⟨d, rfl⟩
  · simp only [busAccess, hr]
  · simp only [busAccess, hr]

/-- No result register is read while DONE = 0 (10_state R30). -/
theorem readResult_of_not_done (h : done s = false) (d : Value) : readResult d s = .error .resultReadWhileNotDone := by
  simp [readResult, h]

/-- ARG is not written while BUSY = 1 (60_exceptions R210). -/
theorem hostWrite_arg_of_busy (h : busy s = true) (d : Value) :
    hostWrite .arg d s = .error .argWriteWhileBusy :=
  if_pos h

/-- No command is accepted while BUSY = 1, whatever ARG holds (60_exceptions R210, R212). -/
theorem acceptCommand_of_busy (h : busy s = true) (c : Byte) : acceptCommand c s = .error .cmdWriteWhileBusy :=
  if_pos h

/-- A command is accepted while BUSY = 0 where the operand it reads has been written (60_exceptions R200). -/
theorem acceptCommand_of_ready {c : Byte} (hb : busy s = false)
    (ha : readsArg (decodeOpcode c) = true → s.arg ≠ none) : acceptCommand c s = .ok (latchCommand c s.arg s) := by
  have hready : (readsArg (decodeOpcode c) && s.arg.isNone) = false := by
    simpa [← Option.ne_none_iff_isSome] using ha
  simp only [acceptCommand, hb, hready, Bool.false_eq_true, if_false]

/-- The write of a command's byte at offset 0x00 is a CMD write of it (20_memory R53). -/
theorem busAccess_cmd (c : Byte) : busAccess (.write 0x00 1 (c.setWidth 64)) s = acceptCommand c s := by
  have hc : (c.setWidth 64).setWidth 8 = c := by simp
  rw [busAccess_write (r := .cmd) (by decide), hostWrite, hc]

end Access

/-- The opcodes of the commands that read ARG (30_encoding R75). -/
theorem readsArg_decodeOpcode_iff (c : Byte) :
    readsArg (decodeOpcode c) = true ↔ c = 0x01#8 ∨ c = 0x03#8 ∨ c = 0x04#8 := by
  obtain ⟨-, -, -, -, -, -, h⟩ := opcodeMapIsWhole c []
  exact h

/-! The block's turn. -/

/-- The block's turn in an operation runs the latched command (60_exceptions R209). -/
theorem blockTurn_of_latched {s : State} {c : Byte} (hp : s.phase ≠ .idle) (ho : s.op = some c) :
    blockTurn s = exec (decodeOpcode c) s := by
  rcases blockTurn_cases s with ⟨c', -, hc, h⟩ | ⟨-, hidle | hnone⟩
  · obtain rfl : c = c' := Option.some.inj (ho.symm.trans hc)
    exact h
  · exact absurd hidle hp
  · exact nomatch ho.symm.trans hnone

/-- A scheduled turn of the block runs the latched command (log 2). -/
theorem step_of_block {s : State} {c : Byte} {rest : List Turn} (hm : s.hpv = false) (hs : s.schedule = .block :: rest)
    (hp : s.phase ≠ .idle) (ho : s.op = some c) : step s = exec (decodeOpcode c) { s with schedule := rest } :=
  (step_of_schedule hm hs).trans (blockTurn_of_latched hp ho)

/-- The state made for a command word is the acceptance of its byte (log 16). -/
theorem withFetchWord_toNat (s : State) (c : Byte) : s.withFetchWord 8 c.toNat = acceptedState c s := by
  rw [State.withFetchWord, Nat.mod_eq_of_lt c.isLt, BitVec.ofNat_toNat, BitVec.setWidth_eq]

/-- An acceptance puts the block into an operation (60_exceptions R200). -/
theorem latchCommand_phase_ne_idle (c : Byte) (o : Option Value) (s : State) :
    (latchCommand c o s).phase ≠ .idle := by
  rw [latchCommand_phase]
  split
  · exact nofun
  · exact nofun

/-! Answers without bytes. -/

section NoBytes
variable {s : State} {n : Nat} {e : ArchError} {g : List Byte → State → State} (hw : srcWait s = false)
include hw

/-- An END answer raises the error of the request it answers (42_bytesource R145). -/
theorem takeResponse_of_endOfInput (hr : s.resp = .endOfInput) :
    takeResponse n e g s = raiseError e { s with resp := .none } := by
  simp only [takeResponse, hw, hr, Bool.false_eq_true, if_false]

/-- An ERR answer raises SOURCE_ERROR, whatever it answers (60_exceptions R207). -/
theorem takeResponse_of_sourceError (hr : s.resp = .sourceError) :
    takeResponse n e g s = raiseError .sourceError { s with resp := .none } := by
  simp only [takeResponse, hw, hr, Bool.false_eq_true, if_false]

end NoBytes

end Sys2Proof.Machine

open Sys2Proof Sys2Proof.Machine

/-- Settles O37, violation by violation: what the access at its register answers. -/
theorem hostProtocolViolationsStop : Obligations.HostProtocolViolationsStop := by
  intro s a prog rest hm hs hp
  have hmark : ∀ v, busAccess a { s with schedule := rest, hostProgram := prog } = .error v →
      step s = .next (markedBy v prog rest s) := fun _ => step_of_violation hm hs hp
  refine ⟨fun v => step_of_marked rfl, ?_, ?_, ?_, ?_, ?_, fun o w ha h1 h2 h3 h4 h5 h6 => ?_, ?_, ?_⟩
  · rintro d rfl hb
    exact hmark _ ((busAccess_write (r := .cmd) (by decide)).trans (acceptCommand_of_busy (by exact hb) _))
  · rintro d rfl hb
    exact hmark _ ((busAccess_write (r := .arg) (by decide)).trans (hostWrite_arg_of_busy (by exact hb) d))
  · rintro o w rfl hd hreg
    have hread := readResult_of_not_done (s := { s with schedule := rest, hostProgram := prog }) hd
    rcases hreg with ⟨rfl, rfl⟩ | ⟨rfl, rfl⟩ | ⟨hlow, hhigh, rfl⟩
    · exact hmark _ (busAccess_read_of_violation (r := .resValue) (by decide) (hread _))
    · exact hmark _ (busAccess_read_of_violation (r := .resLen) (by decide) (hread _))
    · obtain ⟨j, hj⟩ := exists_hostRegAt_frame hlow hhigh
      exact hmark _ (busAccess_read_of_violation hj (hread _))
  · rintro rfl
    exact hmark _ (busAccess_read_of_violation (r := .cmd) (by decide) rfl)
  · rintro o w d rfl (⟨rfl, rfl⟩ | ⟨rfl, rfl⟩ | ⟨rfl, rfl⟩ | ⟨hlow, hhigh, rfl⟩)
    · exact hmark _ (busAccess_write (r := .status) (by decide))
    · exact hmark _ (busAccess_write (r := .resValue) (by decide))
    · exact hmark _ (busAccess_write (r := .resLen) (by decide))
    · obtain ⟨j, hj⟩ := exists_hostRegAt_frame hlow hhigh
      exact hmark _ (busAccess_write hj)
  · exact hmark _ (busAccess_of_no_register ha (hostRegAt_eq_none h1 h2 h3 h4 h5 h6))
  · rintro rfl harg
    exact hmark _ (busAccess_read_of_violation (r := .arg) (by decide) (by simp only [hostRead, harg]))
  · rintro c rfl hc hb harg
    have hreads := (readsArg_decodeOpcode_iff c).mpr hc
    exact hmark _ ((busAccess_cmd c).trans (acceptCommand_of_arg_none hb hreads harg))

/-- Settles O4: a scheduled turn of the block, and the eager order's. -/
theorem stepRunsTheLatchedCommand : Obligations.StepRunsTheLatchedCommand := fun _ _ hm hp ho =>
  ⟨fun _ hs => step_of_block hm hs hp ho, fun hs => step_of_latched hm hs hp ho⟩

/-- Settles O5: the state made is an acceptance with a turn of the block to come. -/
theorem stepRunsTheFetchedWord : Obligations.StepRunsTheFetchedWord := by
  intro s c
  rw [withFetchWord_toNat]
  exact ⟨step_of_block rfl rfl (latchCommand_phase_ne_idle c _ _) rfl, rfl, rfl, rfl, fun h => by
    simp only [acceptedState, h, if_true, latchCommand_opnd]⟩

/-- Settles O27, by the phase whose request is answered. -/
theorem decodeReportsEndAndErr : Obligations.DecodeReportsEndAndErr := by
  intro s hw
  have hstep : ∀ e, decodeStep s = raiseError e { s with resp := .none } →
      exec .dec s = .next (raiseError e { s with resp := .none }) := fun _ => congrArg Host.Outcome.next
  refine ⟨fun hp hr => hstep .endOfInput ?_, fun hp hr => hstep .truncatedFrame ?_,
    fun hp hr => hstep .sourceError ?_⟩
  · rw [decodeStep, hp]
    exact takeResponse_of_endOfInput hw hr
  · rcases hp with hp | hp <;> rw [decodeStep, hp]
    · exact takeResponse_of_endOfInput hw hr
    · exact takeResponse_of_endOfInput hw hr
  · rcases hp with hp | hp | hp <;> rw [decodeStep, hp]
    · exact takeResponse_of_sourceError hw hr
    · exact takeResponse_of_sourceError hw hr
    · exact takeResponse_of_sourceError hw hr

/-- Settles O33: the one-step operation of a reserved opcode raises ILLEGAL_COMMAND. -/
theorem reservedOpcodeIsIllegalCommand : Obligations.ReservedOpcodeIsIllegalCommand := fun s _ hp =>
  congrArg Host.Outcome.next (if_pos (t := raiseError .illegalCommand s) hp)

/-- Settles O34: the CMD write meets no violation, so it is accepted. -/
theorem cmdWriteIsAccepted : Obligations.CmdWriteIsAccepted := by
  intro s c prog rest hm hs hp hb ha
  exact step_of_access hm hs hp ((busAccess_cmd c).trans
    (acceptCommand_of_ready hb (ha ∘ (readsArg_decodeOpcode_iff c).mp)))
end

section
/-! SUPPORT. A DECODE over ByteSourceOver by the empty schedule, whatever the stream holds: the block's steps and the
agent's answers alternate until it completes (log 2; 42_bytesource R144, R150; 70_reset R239). -/

namespace Sys2Proof.Machine

/-- A DECODE with the invariant of the block, at any of its phases, with a ByteSourceOver connected and no turn scheduled. -/
structure ServedDecode (s : State) : Prop where
  consistent : blockConsistent s = true
  decoding : inDecode s = true
  hpv : s.hpv = false
  schedule : s.schedule = []
  source : ∃ a, s.source = some a ∧ a.kind = .over

/-- The block has completed an operation: IDLE with BUSY = 0 and DONE = 1 (60_exceptions R202, R203). -/
def hasCompleted (t : State) : Prop := t.phase = .idle ∧ busy t = false ∧ done t = true

theorem hasCompleted_of_completion {t : State} (hp : t.phase = .idle)
    (hst : t.status = statusDone ∨ ∃ e, t.status = statusError e) : hasCompleted t :=
  ⟨hp, (idleStatus_flags ((idleStatus_iff t.status).mpr (.inr hst))).1, getLsbD_one_of_completion hst⟩

/-! The phases of a DECODE. -/

section Phases
variable {s : State} (hi : inDecode s = true)
include hi

theorem phase_ne_idle_of_inDecode : s.phase ≠ .idle := fun hp => by simp [inDecode, hp] at hi

theorem decodeStepsLeft_pos_of_inDecode : 0 < decodeStepsLeft s.phase := by
  cases hp : s.phase with
  | idle => exact absurd hp (phase_ne_idle_of_inDecode hi)
  | exec => simp [inDecode, hp] at hi
  | decStart | decB0 | decB1 | decTail => decide

/-- The command latched in a DECODE is DEC (10_state R31, R32). -/
theorem op_of_inDecode (h : blockConsistent s = true) : s.op = some 0x02#8 := by
  cases hp : s.phase with
  | idle => exact absurd hp (phase_ne_idle_of_inDecode hi)
  | exec => simp [inDecode, hp] at hi
  | decStart =>
    obtain ⟨_, _, _, ho⟩ := (blockConsistent_decStart hp).mp h
    exact ho
  | decB0 =>
    obtain ⟨_, _, ho, _⟩ := (blockConsistent_decB0 hp).mp h
    exact ho
  | decB1 =>
    obtain ⟨_, _, ho, _⟩ := (blockConsistent_decB1 hp).mp h
    exact ho
  | decTail =>
    obtain ⟨_, _, ho, _⟩ := (blockConsistent_decTail hp).mp h
    exact ho

end Phases

/-- A DECODE that waits has issued a request, so at most three steps of the block are left (43_decoder R161). -/
theorem decodeStepsLeft_le_three_of_srcWait {s : State} (h : blockConsistent s = true) (hw : srcWait s = true) :
    decodeStepsLeft s.phase ≤ 3 := by
  obtain ⟨hp | hp | hp, _⟩ := waiting_of_srcWait h hw <;> rw [hp] <;> decide

/-! The two kinds of step. -/

section Served
variable {s : State} (h : ServedDecode s)
include h

/-- With no request outstanding the block moves at once (log 2). -/
theorem ServedDecode.step_of_not_srcWait (hw : srcWait s = false) : step s = .next (decodeStep s) :=
  step_of_latched h.hpv h.schedule (phase_ne_idle_of_inDecode h.decoding) (op_of_inDecode h.decoding h.consistent) hw

/-- The block's step completes the DECODE, or leaves it waiting with fewer steps to go (43_decoder R161, R165). -/
theorem ServedDecode.completes_or_waits (hw : srcWait s = false) :
    hasCompleted (decodeStep s) ∨
      (ServedDecode (decodeStep s) ∧ srcWait (decodeStep s) = true ∧
        decodeStepsLeft (decodeStep s).phase < decodeStepsLeft s.phase) := by
  obtain ⟨hlt, _⟩ := stepsLeftBelow_decodeStep h.consistent h.decoding hw
  obtain ⟨⟨_, _, _, hsrc, _, _, hsched, _, hm, _⟩, _⟩ := decodeStep_frame s
  rcases decodeStep_events s with heq | ⟨_, hi, _, hst⟩ | ⟨_, hp, hst⟩
  · exact absurd hlt (by rw [heq]; exact lt_irrefl _)
  · have hwait : srcWait (decodeStep s) = true := by rw [srcWait_def, hst, getLsbD_withSrcWait_three]
    exact .inr ⟨⟨blockConsistent_decodeStep h.consistent, hi, hm.trans h.hpv, hsched.trans h.schedule,
      hsrc.symm ▸ h.source⟩, hwait, hlt⟩
  · exact .inl (hasCompleted_of_completion hp hst)

/-- An outstanding request is answered at once, which leaves the DECODE in its phase (42_bytesource R144, R150). -/
theorem ServedDecode.exists_step_of_srcWait (hw : srcWait s = true) :
    ∃ t, step s = .next t ∧ ServedDecode t ∧ srcWait t = false ∧ t.phase = s.phase := by
  obtain ⟨a, hs, hk⟩ := h.source
  have hans := sourceAnswer_of_over (c := .data) (n := s.reqN) hk
  have hkind : (overAnswer s.reqN a).2.kind = .over := by
    rcases overAnswer_cases s.reqN a with ⟨_, ho⟩ | ho <;> rw [ho] <;> exact hk
  have hturn : eagerTurn s = .source .data := by simp [eagerTurn, blockEnabled, sourceEnabled, hw, hs, hk]
  refine ⟨_, ?_, ⟨blockConsistent_answered h.consistent hw hans, h.decoding, h.hpv, h.schedule, _, rfl, hkind⟩,
    getLsbD_withoutSrcWait_three s.status, rfl⟩
  rw [step_of_nil h.hpv h.schedule, hturn, takeTurn, answerRequest_of_answer hw hs hans]

end Served

/-! The run. -/

/-- With n + 1 steps of the block left the DECODE completes in those and the n answers between them. -/
theorem reachesWithin_hasCompleted (n : Nat) {s : State} (h : ServedDecode s) (hw : srcWait s = false)
    (hn : decodeStepsLeft s.phase ≤ n + 1) : reachesWithin (2 * n + 1) s hasCompleted := by
  induction n generalizing s with
  | zero =>
    rcases h.completes_or_waits hw with hdone | ⟨ht, _, hlt⟩
    · exact reachesWithin_succ_of_step (h.step_of_not_srcWait hw) (reachesWithin_of_now hdone)
    · have := decodeStepsLeft_pos_of_inDecode ht.decoding
      omega
  | succ n ih =>
    refine reachesWithin_succ_of_step (h.step_of_not_srcWait hw) ?_
    rcases h.completes_or_waits hw with hdone | ⟨ht, hwait, hlt⟩
    · exact reachesWithin_of_now hdone
    · obtain ⟨u, hstep, hu, hwu, hp⟩ := ht.exists_step_of_srcWait hwait
      exact reachesWithin_succ_of_step hstep (ih hu hwu (by rw [hp]; omega))

end Sys2Proof.Machine

open Sys2Proof Sys2Proof.Machine

/-- Settles O32: four steps of the block and three answers, or, from an outstanding request, three of each. -/
theorem answeredDecodeCompletes : Obligations.AnsweredDecodeCompletes := by
  intro s a hinv hm hs hi hsrc hk
  have h : ServedDecode s := ⟨(inv_iff.mp hinv).1, hi, hm, hs, a, hsrc, hk⟩
  cases hw : srcWait s with
  | false => exact reachesWithin_hasCompleted 3 h hw (decodeStepsLeft_le_four s.phase)
  | true =>
    obtain ⟨t, hstep, ht, hwt, hp⟩ := h.exists_step_of_srcWait hw
    have hle : decodeStepsLeft t.phase ≤ 2 + 1 := hp ▸ decodeStepsLeft_le_three_of_srcWait h.consistent hw
    exact reachesWithin_mono (by decide) (reachesWithin_succ_of_step hstep (reachesWithin_hasCompleted 2 ht hwt hle))
end

section
/-! SUPPORT. The reset event: the flags and the results it leaves, and the source agent after it (70_reset R230 to R232). -/

namespace Sys2Proof.Machine

/-- The platform's turn is the reset event (70_reset R230; log 2). -/
theorem step_of_reset {s : State} {rest : List Turn} (hm : s.hpv = false) (hs : s.schedule = .reset :: rest) :
    step s = .next (resetEvent { s with schedule := rest }) :=
  step_of_schedule hm hs

@[simp] theorem busy_resetEvent (s : State) : busy (resetEvent s) = false := by simp [busy_def]
@[simp] theorem done_resetEvent (s : State) : done (resetEvent s) = false := by simp [done_def]
@[simp] theorem error_resetEvent (s : State) : error (resetEvent s) = false := by simp [error]
@[simp] theorem srcWait_resetEvent (s : State) : srcWait (resetEvent s) = false := by simp [srcWait_def]
@[simp] theorem errCode_resetEvent (s : State) : errCode (resetEvent s) = 0#4 := by simp [errCode]

/-- After a reset no result is readable (10_state R30, 70_reset R230). -/
@[simp] theorem readableResults_resetEvent (s : State) : readableResults (resetEvent s) = none := by
  simp [readableResults]

/-- Outside a DECODE a reset leaves the source agent as it is (70_reset R232). -/
theorem sourceAfterReset_of_not_inDecode {s : State} (hi : inDecode s = false) : sourceAfterReset s = s.source := by
  rw [sourceAfterReset, hi, if_neg Bool.false_ne_true]

/-- In a DECODE the agent keeps its stream, at the open position (70_reset R232; log 12). -/
theorem sourceAfterReset_of_inDecode {s : State} {a : SourceAgent} (hi : inDecode s = true) (hs : s.source = some a) :
    sourceAfterReset s = some { a with pos := Config.srcPosAfterReset s.freeDraws } := by
  rw [sourceAfterReset, if_pos hi, hs, Option.map_some]

end Sys2Proof.Machine

open Sys2Proof Sys2Proof.Machine

/-- Settles O43: the reset clears SRC_WAIT, and without a request the source agent's turn changes nothing. -/
theorem resetAbandonsTheOperation : Obligations.ResetAbandonsTheOperation := by
  intro s c rest hm hs _
  obtain ⟨hunasked, -⟩ :=
    answerStepChangesOnlyThePort (resetEvent { s with schedule := .source c :: rest }) c rest hm rfl
  exact ⟨_, _, step_of_reset hm hs, busy_resetEvent _, done_resetEvent _, error_resetEvent _, errCode_resetEvent _,
    hunasked (srcWait_resetEvent _), rfl, fun _ => sourceAfterReset_of_inDecode⟩

/-- Settles O42, field by field of the reset event. -/
theorem resetReturnsTheBlockToIdle : Obligations.ResetReturnsTheBlockToIdle := by
  intro s rest hm hs
  refine ⟨resetEvent { s with schedule := rest }, step_of_reset hm hs, ?_⟩
  simp only [resetEvent_phase, resetEvent_status, resetEvent_arg, resetEvent_op, resetEvent_opnd, resetEvent_resp,
    srcWait_resetEvent, readableResults_resetEvent, resetEvent_hpv, resetEvent_violation, resetEvent_schedule,
    resetEvent_hostProgram, resetEvent_hostReads, resetEvent_source, true_and]
  exact sourceAfterReset_of_not_inDecode

/-- Settles O50: the state after reset is IDLE with STATUS 0, RES_LEN 0 and an empty slot, and has no mark. -/
theorem invariantHoldsAtReset : Obligations.InvariantHoldsAtReset :=
  inv_iff.mpr ⟨(blockConsistent_idle rfl).mpr ⟨by decide, by decide, rfl⟩, rfl⟩
end
